-- ==== Sys2Proof/Word.lean ====
section
/-! DEFINITION. The word types of the core (rules R7, R9 and R10): 32-bit words and bytes, both unsigned.
Addition, subtraction, XOR, OR and the shifts of rule R10 are BitVec's own, which wrap modulo 2^32. -/

namespace Sys2Proof

/-- A u32: the width of every state word and register (rules R7 and R8). -/
abbrev Word := BitVec 32

/-- A u8: one byte of the data space (rule R41). -/
abbrev Byte := BitVec 8

end Sys2Proof
end

