-- ==== Sys2Proof/Syntax.lean ====
section
/-! DEFINITION. The commands of the core, one constructor per row of spec/opcode_table.json (rule R63). -/

namespace Sys2Proof

/-- A command of format C (rules R60 to R63). -/
inductive Instr where
  /-- NOP, OP = 0x0 (rule R121). -/
  | nop
  /-- HASH, OP = 0x1: start the block-processing state machine (rule R120). -/
  | hash
  /-- INIT, OP = 0x2 (rule R117). -/
  | init
  /-- BLOCK, OP = 0x3 (rule R118). -/
  | block
  /-- TAIL, OP = 0x4 (rule R119). -/
  | tail
  /-- FINAL, OP = 0x5 (rule R103). -/
  | final
  /-- MIX, OP = 0x6 (rule R93). -/
  | mix
  /-- ROT, OP = 0x7, with the rotation amount K (rules R62 and R82). -/
  | rot (k : BitVec 5)
  deriving DecidableEq, Repr

end Sys2Proof
end

