-- ==== Sys2Proof/WellFormed.lean ====
section
/-! DEFINITION. Which commands are legal as data: ROT's amount is not 0 (rules R62 and R67). -/

namespace Sys2Proof

/-- A command that some legal word stands for: ROT takes 1 ≤ K ≤ 31 (rule R67); the others have no operand. -/
def Instr.wellFormed : Instr → Bool
  | .nop => true
  | .hash => true
  | .init => true
  | .block => true
  | .tail => true
  | .final => true
  | .mix => true
  | .rot k => k != 0#5

end Sys2Proof
end

