-- ==== Sys2Proof/Decode.lean ====
section
/-! DEFINITION. The decoder of rule R64 (fields of rule R61, checks of rules R65 to R67, map of rule R63) and the encoder
of rules R63 and R70. The decoder is total on all 2^32 words (rule R69). -/

namespace Sys2Proof

/-- OP = w[3:0] (rule R61). -/
def opField (w : Word) : BitVec 4 := w.extractLsb' 0 4

/-- K = w[8:4] (rule R61). -/
def kField (w : Word) : BitVec 5 := w.extractLsb' 4 5

/-- RSV = w[31:9] (rule R61). -/
def rsvField (w : Word) : BitVec 23 := w.extractLsb' 9 23

/-- Why a word is not a legal command; each is reported as ILLEGAL (rule R144). -/
inductive DecodeError where
  /-- A bit of RSV is set (rule R66). -/
  | rsvSet
  /-- OP is one of 0x8 to 0xF (rule R65). -/
  | opReserved
  /-- ROT with K = 0 (rule R67). -/
  | rotZero
  /-- A command other than ROT with K ≠ 0 (rule R67). -/
  | kMisused
  deriving DecidableEq, Repr

/-- The checks of rule R64 in its order, then the map of rule R63, on the fields of a word. -/
def decodeFields (rsv : BitVec 23) (op : BitVec 4) (k : BitVec 5) : Except DecodeError Instr :=
  if rsv ≠ 0#23 then .error .rsvSet
  else if 0x8#4 ≤ op then .error .opReserved
  else if op = 0x7#4 ∧ k = 0#5 then .error .rotZero
  else if op ≠ 0x7#4 ∧ k ≠ 0#5 then .error .kMisused
  else if op = 0x0#4 then .ok .nop
  else if op = 0x1#4 then .ok .hash
  else if op = 0x2#4 then .ok .init
  else if op = 0x3#4 then .ok .block
  else if op = 0x4#4 then .ok .tail
  else if op = 0x5#4 then .ok .final
  else if op = 0x6#4 then .ok .mix
  else .ok (.rot k)

/-- The decoder (rules R64 and R69). -/
def decode (w : Word) : Except DecodeError Instr := decodeFields (rsvField w) (opField w) (kField w)

/-- The word of a command: the full patterns of rule R63. -/
def encode : Instr → Word
  | .nop => 0x00000000#32
  | .hash => 0x00000001#32
  | .init => 0x00000002#32
  | .block => 0x00000003#32
  | .tail => 0x00000004#32
  | .final => 0x00000005#32
  | .mix => 0x00000006#32
  | .rot k => 0x00000007#32 ||| (k.setWidth 32 <<< 4)

/-! Every constructor's word, written out from the patterns of rule R63 (ROT: rule R70's example `ROT 16`). -/

theorem decode_word_nop : decode 0b00000000000000000000000000000000#32 = .ok .nop := by decide
theorem decode_word_hash : decode 0b00000000000000000000000000000001#32 = .ok .hash := by decide
theorem decode_word_init : decode 0b00000000000000000000000000000010#32 = .ok .init := by decide
theorem decode_word_block : decode 0b00000000000000000000000000000011#32 = .ok .block := by decide
theorem decode_word_tail : decode 0b00000000000000000000000000000100#32 = .ok .tail := by decide
theorem decode_word_final : decode 0b00000000000000000000000000000101#32 = .ok .final := by decide
theorem decode_word_mix : decode 0b00000000000000000000000000000110#32 = .ok .mix := by decide
theorem decode_word_rot : decode 0b00000000000000000000000100000111#32 = .ok (.rot 16#5) := by decide

/-- The command this decoder reads from the bits `w` of an opcode-table row of `nbits` bits, bits above `nbits` zero. A
command is one 32-bit word (rule R60), so a longer row or a wider number is no command. -/
def decodeTableWord (nbits w : Nat) : Option Instr :=
  if nbits ≤ 32 ∧ w < 2 ^ 32 then
    match decode (BitVec.ofNat 32 (w % 2 ^ nbits)) with
    | .ok i => some i
    | .error _ => none
  else none

end Sys2Proof
end

