-- ==== Sys2Proof/Config.lean ====
section
/-! DEFINITION. What the spec leaves OPEN: the parameter DSIZE (rule R8, decision D3) and the register values before the
first reset (rule R163, decision D18). Neither has a body, so nothing can be proved that holds for one value only. -/

namespace Sys2Proof

/-- `DSIZE`, the number of bytes of the data space: the value `State.reset` starts from (log entry 2). The State holds
its own copy, so statements over all states cover every size. -/
opaque Config.dsize : Word

/-- A value for every register before the first reset: the OPEN parameter PREBOOT (rule R163, decision D18). The registers
without storage (CTRL, STATUS.BUSY) and the constant DSIZE are not among them. -/
structure Preboot where
  a : Word
  b : Word
  c : Word
  seed : Word
  len : Word
  off : Word
  rem : Word
  result : Word
  /-- STATUS[10:8], any of the eight codes. -/
  phase : BitVec 3
  done : Bool
  err : Bool
  /-- STATUS[6:4], any of the eight codes. -/
  ecode : BitVec 3
  deriving DecidableEq, Repr, Inhabited

/-- `PREBOOT`, free values: what the registers hold from power-up to the first reset (log entry 11). -/
opaque Config.preboot : Preboot

end Sys2Proof
end

