-- ==== Sys2Proof/Machine/State.lean ====
section
/-! DEFINITION. The state of the core as plain data (10_state.md), the events its surroundings send it, the reasons a step
can stop, and the state after reset (rule R38). -/

namespace Sys2Proof.Machine

/-- PHASE, three bits (rule R27). Values 6 and 7 are never written; they stand here so that a CORE step that meets one
can fault, as rule R127 asks. -/
inductive Phase where
  /-- 0: no HASH run in progress. -/
  | idle
  /-- 1: the next CORE step performs Init. -/
  | init
  /-- 2: the next CORE step processes one 12-byte block. -/
  | bulk
  /-- 3: the next CORE step folds the trailing bytes. -/
  | tail
  /-- 4: the next CORE step performs Finalize. -/
  | final
  /-- 5: the next CORE step returns C unfinalized. -/
  | empty
  /-- 6: never written. -/
  | reserved6
  /-- 7: never written. -/
  | reserved7
  deriving DecidableEq, Repr

/-- What an error can be raised for: the codes 1 to 4 of rule R141. -/
inductive Cause where
  /-- 1: a command word that is not one of the 38 legal words (rule R144). -/
  | illegal
  /-- 2: LEN > DSIZE at INIT or HASH (rule R145); MemRead's guard (rule R42). -/
  | oob
  /-- 3: BLOCK or TAIL out of order (rule R146). -/
  | seq
  /-- 4: a write while BUSY = 1 (rule R147). -/
  | busy
  deriving DecidableEq, Repr

/-- STATUS.ECODE, three bits (rule R141): NONE, or the code of the first error since ERR was last cleared. Codes 5 to 7
are never produced; they stand here because before the first reset the register may hold any value (rule R163; log entries
7 and 11). -/
inductive ECode where
  /-- 0: NONE. -/
  | none
  /-- 1 to 4: the cause of the first error. -/
  | of (cause : Cause)
  /-- 5: never produced. -/
  | reserved5
  /-- 6: never produced. -/
  | reserved6
  /-- 7: never produced. -/
  | reserved7
  deriving DecidableEq, Repr

/-- What the surroundings of the core do, one step each (rules R50, R71 and R174; log entries 1 and 17). Offsets are byte
offsets in the register space, `width` is the access width in bytes. -/
inductive Event where
  /-- A HOST write: `WR`, and every command (rule R71). -/
  | write (offset width : Nat) (value : Word)
  /-- A HOST read: `RD` (rule R71). -/
  | read (offset width : Nat)
  /-- The HOST's `BNZ reg[bit], L` at the end of a poll loop `L: RD reg` (rules R71 and R72). -/
  | bnz (offset : Nat) (bit : Fin 32)
  /-- The HOST's `RD REM` and branch in STEPHASH (rule R72). -/
  | remTest
  /-- The reset input (rule R160). -/
  | reset
  /-- The platform stores one byte of the data space (rules R45 and R163). -/
  | storeData (addr : Nat) (value : Byte)
  /-- A turn given to the CORE (rules R14 and R127). -/
  | core
  deriving DecidableEq, Repr

/-- Why the machine stops with a fault. All are safe: after its first reset the hardware has no such state, and it has no
such byte. -/
inductive Fault where
  /-- A CORE step met PHASE 6 or 7 (rule R127). Raised by `coreStep`; safe: no state after the first reset has it. -/
  | impossiblePhase
  /-- A guard failed in a CORE step (rule R143): REM out of range for BULK or TAIL, or a read outside the data space.
  Raised by `coreStep`; safe: no state after the first reset has it. -/
  | failedGuard
  /-- The platform stored to an index the data space does not have (rule R41; log entry 10). Raised by `storeData`;
  safe. -/
  | noSuchDataByte
  deriving DecidableEq, Repr

/-- Why an event has no meaning. All are safe: the model stops where the spec defines no operation. -/
inductive Refusal where
  /-- No meaning written for this command. Raised by no arm of `exec` now; safe. -/
  | notModelled (mnemonic : String)
  /-- A register access of another width than 32 bits, or at another offset than the sixteen of the register map (rule
  R44). Raised by the HOST's accesses; safe. -/
  | undefinedAccess
  /-- The data space changed while BUSY = 1 (rule R166): such a run has no defined result. Raised by `storeData`;
  safe. -/
  | dataChangedDuringRun
  deriving DecidableEq, Repr

/-- Bytes of the data space by index, rising, zeros left out (log entry 3). -/
abbrev Memory := List Host.Cell

/-- All the state the spec gives the core (10_state.md), and two fields of the model's own, `inbox` and `readBack`.
STATUS.BUSY is not stored: it is 1 exactly when PHASE ≠ IDLE (rule R29). CTRL has no storage (rule R32). -/
structure State where
  /-- A (rule R20). -/
  a : Word
  /-- B (rule R20). -/
  b : Word
  /-- C (rule R20). -/
  c : Word
  /-- SEED (rule R22). -/
  seed : Word
  /-- LEN (rule R23). -/
  len : Word
  /-- OFF, the index of the next input byte (rule R24). -/
  off : Word
  /-- REM, the input bytes not yet consumed (rule R25). -/
  rem : Word
  /-- RESULT (rule R28). -/
  result : Word
  /-- PHASE, STATUS[10:8] (rule R27). -/
  phase : Phase
  /-- STATUS.DONE, bit 1 (rule R29). -/
  done : Bool
  /-- STATUS.ERR, bit 2 (rule R29). -/
  err : Bool
  /-- STATUS.ECODE, bits 6:4 (rule R29). -/
  ecode : ECode
  /-- The DSIZE register, the parameter DSIZE (rules R8 and R33). -/
  dsize : Word
  /-- The data space, the parameter DATA (rules R8 and R41). -/
  mem : Memory
  /-- The model's own: the events still to come, oldest first (log entry 1). -/
  inbox : List Event
  /-- The model's own: the value the last HOST read returned (log entry 4). -/
  readBack : Option Word
  deriving DecidableEq, Repr

/-- The state after reset (rules R38 and R160) on a platform whose data space has `dsize` bytes with the contents
`mem`. -/
def State.resetFor (dsize : Word) (mem : Memory) : State where
  a := 0x00000000#32
  b := 0x00000000#32
  c := 0x00000000#32
  seed := 0x00000000#32
  len := dsize
  off := 0#32
  rem := 0#32
  result := 0x00000000#32
  phase := .idle
  done := false
  err := false
  ecode := .none
  dsize := dsize
  mem := mem
  inbox := []
  readBack := none

/-- The machine right after reset: rule R38 with the platform's DSIZE, and a data space in which nothing is listed. -/
def State.reset : State := State.resetFor Config.dsize []

end Sys2Proof.Machine
end

