-- ==== Sys2Proof/Machine/Flags.lean ====
section
/-! DEFINITION. The fields of STATUS (rule R29): the codes of PHASE (rule R27) and ECODE (rule R141), BUSY, and the packed
word a HOST read of STATUS returns. The core has no other flags (rule R35). -/

namespace Sys2Proof.Machine

/-- The encoding of PHASE (rule R27). -/
def Phase.code : Phase → BitVec 3
  | .idle => 0#3
  | .init => 1#3
  | .bulk => 2#3
  | .tail => 3#3
  | .final => 4#3
  | .empty => 5#3
  | .reserved6 => 6#3
  | .reserved7 => 7#3

/-- The encoding of ECODE (rule R141). -/
def ECode.code : ECode → BitVec 3
  | .none => 0#3
  | .of .illegal => 1#3
  | .of .oob => 2#3
  | .of .seq => 3#3
  | .of .busy => 4#3
  | .reserved5 => 5#3
  | .reserved6 => 6#3
  | .reserved7 => 7#3

/-- The phase a code of STATUS[10:8] stands for (rule R27). -/
def Phase.ofCode (code : BitVec 3) : Phase :=
  match code.toNat with
  | 0 => .idle
  | 1 => .init
  | 2 => .bulk
  | 3 => .tail
  | 4 => .final
  | 5 => .empty
  | 6 => .reserved6
  | _ => .reserved7

/-- The value a code of STATUS[6:4] stands for (rule R141). -/
def ECode.ofCode (code : BitVec 3) : ECode :=
  match code.toNat with
  | 0 => .none
  | 1 => .of .illegal
  | 2 => .of .oob
  | 3 => .of .seq
  | 4 => .of .busy
  | 5 => .reserved5
  | 6 => .reserved6
  | _ => .reserved7

/-- STATUS.BUSY: 1 exactly when PHASE ≠ IDLE (rule R29). -/
def State.busy (s : State) : Bool := s.phase != .idle

/-- A flag as the word with that bit in place 0. -/
def flagWord (b : Bool) : Word := (BitVec.ofBool b).setWidth 32

/-- The STATUS word of rule R29; reserved bits read 0. -/
def State.statusWord (s : State) : Word :=
  flagWord s.busy ||| (flagWord s.done <<< 1) ||| (flagWord s.err <<< 2)
    ||| (s.ecode.code.setWidth 32 <<< 4) ||| (s.phase.code.setWidth 32 <<< 8)

/-- `STATUS.DONE <- 1`. -/
def State.setDone (s : State) : State := { s with done := true }

/-- A write of `w` to STATUS (rule R128): the acknowledgement of DONE and of an error (rule R150). -/
def State.acknowledge (s : State) (w : Word) : State :=
  { s with
    done := if w.getLsbD 1 then false else s.done
    err := if w.getLsbD 2 then false else s.err
    ecode := if w.getLsbD 2 then .none else s.ecode }

end Sys2Proof.Machine
end

