-- ==== Sys2Proof/Machine/Ops.lean ====
section
/-! DEFINITION. The named operations over the state: the data space as a list in canonical form, raising an error (rule
R142), the BUSY check (rule R147), performing a command (rule R64), the register map (rule R31), reset (rule R160), and
power-up before it (rule R163). -/

namespace Sys2Proof.Machine

/-- The byte at an index; an index that is not listed reads 0 (log entry 3). -/
def Memory.read : Memory → Nat → Byte
  | [], _ => 0#8
  | (k, b) :: rest, addr => if k = addr then b else Memory.read rest addr

/-- Store one byte, keeping the canonical form: indices rising, no zero listed. -/
def Memory.write : Memory → Nat → Byte → Memory
  | [], addr, v => if v = 0#8 then [] else [(addr, v)]
  | (k, b) :: rest, addr, v =>
    if addr < k then (if v = 0#8 then (k, b) :: rest else (addr, v) :: (k, b) :: rest)
    else if addr = k then (if v = 0#8 then rest else (addr, v) :: rest)
    else (k, b) :: Memory.write rest addr v

/-- The canonical form: indices strictly rising and no listed byte equal to what an unlisted index reads as. -/
abbrev Memory.wf (m : Memory) : Prop :=
  m.Pairwise (fun x y => x.1 < y.1) ∧ ∀ x ∈ m, x.2 ≠ 0#8

/-- `raise Error(code)` (rule R142): the first code is kept, ERR is set, nothing else changes. -/
def State.raise (s : State) (cause : Cause) : State :=
  { s with ecode := if s.err then s.ecode else .of cause, err := true }

/-- An operation the HOST may start only while BUSY = 0; otherwise it is dropped and raises BUSY (rules R64, R129 and
R147). -/
def State.whenIdle (s : State) (act : State → State) : State :=
  if s.busy then s.raise .busy else act s

/-- Perform a command (rule R64, after decoding): BUSY first, then the command's own checks and effect; an error the
command raises discards everything else it did (rule R142). -/
def State.command (s : State) (body : State → Except Cause State) : State :=
  s.whenIdle fun s =>
    match body s with
    | .ok t => t
    | .error cause => s.raise cause

/-- `(A, B, C) <- v`: the tuple write of rule R12. -/
def State.setWords (s : State) (v : Word × Word × Word) : State :=
  { s with a := v.1, b := v.2.1, c := v.2.2 }

/-- The reset input (rule R160): every register takes its value of rule R38, the data space and its size stay, and so
does what lies outside the core (log entry 18). -/
def State.hwReset (s : State) : State :=
  { State.resetFor s.dsize s.mem with inbox := s.inbox, readBack := s.readBack }

/-- The state from power-up to the first reset (rule R163) on a platform whose data space has `dsize` bytes with the
contents `mem`: every register holds what PREBOOT gives it. STATUS.BUSY follows PHASE (rule R29), DSIZE is constant (rule
R33). -/
def State.powerUpFor (p : Preboot) (dsize : Word) (mem : Memory) : State where
  a := p.a
  b := p.b
  c := p.c
  seed := p.seed
  len := p.len
  off := p.off
  rem := p.rem
  result := p.result
  phase := .ofCode p.phase
  done := p.done
  err := p.err
  ecode := .ofCode p.ecode
  dsize := dsize
  mem := mem
  inbox := []
  readBack := none

/-- The machine before its first reset: every register a free value (rule R163, decision D18; log entry 11). -/
def State.powerUp : State := State.powerUpFor Config.preboot Config.dsize []

/-- The registers of the register space (rule R31). -/
inductive Reg where
  | ctrl | status | seed | len | result | a | b | c | off | rem | dsize | reserved
  deriving DecidableEq, Repr

/-- The register an access reaches (rule R31): a whole 32-bit register at one of the sixteen offsets that are multiples
of 4; any other access is not a defined operation (rule R44). -/
def Reg.ofAccess (offset width : Nat) : Option Reg :=
  if width = 4 then
    [(0x00, Reg.ctrl), (0x04, .status), (0x08, .seed), (0x0C, .len), (0x10, .result), (0x14, .a), (0x18, .b),
      (0x1C, .c), (0x20, .off), (0x24, .rem), (0x28, .dsize), (0x2C, .reserved), (0x30, .reserved), (0x34, .reserved),
      (0x38, .reserved), (0x3C, .reserved)].lookup offset
  else none

/-- The value a HOST read of a register returns (rules R31, R32, R33 and R39). -/
def State.readReg (s : State) : Reg → Word
  | .ctrl => 0x00000000#32
  | .status => s.statusWord
  | .seed => s.seed
  | .len => s.len
  | .result => s.result
  | .a => s.a
  | .b => s.b
  | .c => s.c
  | .off => s.off
  | .rem => s.rem
  | .dsize => s.dsize
  | .reserved => 0x00000000#32

/-- A HOST write of `w` to a register other than CTRL: STATUS by rule R128, SEED, LEN, A, B and C by rule R129, the
read-only and reserved registers unchanged and without error (rule R31). A write to CTRL is a command and changes no
storage (rule R32). -/
def State.writeReg (s : State) (r : Reg) (w : Word) : State :=
  match r with
  | .ctrl => s
  | .status => s.acknowledge w
  | .seed => s.whenIdle fun s => { s with seed := w }
  | .len => s.whenIdle fun s => { s with len := w }
  | .a => s.whenIdle fun s => { s with a := w }
  | .b => s.whenIdle fun s => { s with b := w }
  | .c => s.whenIdle fun s => { s with c := w }
  | .result => s
  | .off => s
  | .rem => s
  | .dsize => s
  | .reserved => s

/-- The value a HOST read hands to the HOST (log entry 4). -/
def State.respond (s : State) (w : Word) : State := { s with readBack := some w }

end Sys2Proof.Machine
end

