-- ==== Sys2Proof/Machine/Operands.lean ====
section
/-! DEFINITION. The operands a command reads from the data space: MemRead (rule R42), the little-endian word (rule R43),
and the lane a tail byte is added to (rule R114). All other operands are registers (rule R62). -/

namespace Sys2Proof.Machine

/-- `MemRead(addr, 1)` (rule R42). The address is exact, so a read past the end never wraps to index 0 (log entry 5). -/
def State.memRead (s : State) (addr : Nat) : Except Cause Byte :=
  if addr < s.dsize.toNat then .ok (s.mem.read addr) else .error .oob

/-- Four bytes as a word, the lowest index least significant (rule R43). -/
def le32 (b0 b1 b2 b3 : Byte) : Word :=
  b0.setWidth 32 ||| (b1.setWidth 32 <<< 8) ||| (b2.setWidth 32 <<< 16) ||| (b3.setWidth 32 <<< 24)

/-- `LoadWord32(addr)` (rule R43). -/
def State.loadWord32 (s : State) (addr : Nat) : Except Cause Word := do
  let b0 ← s.memRead addr
  let b1 ← s.memRead (addr + 1)
  let b2 ← s.memRead (addr + 2)
  let b3 ← s.memRead (addr + 3)
  return le32 b0 b1 b2 b3

/-- `S[j div 4] <- S[j div 4] + (zext_32(x) << (8 * (j mod 4)))` with S[0] = A, S[1] = B, S[2] = C (rule R114). -/
def addLane (v : Word × Word × Word) (j : Nat) (x : Byte) : Word × Word × Word :=
  let add := x.setWidth 32 <<< (8 * (j % 4))
  match j / 4 with
  | 0 => (v.1 + add, v.2.1, v.2.2)
  | 1 => (v.1, v.2.1 + add, v.2.2)
  | _ => (v.1, v.2.1, v.2.2 + add)

end Sys2Proof.Machine
end

