-- ==== Sys2Proof/Machine/Rotate.lean ====
section
/-! DEFINITION. The rotate unit (40_rotate.md): the function Rotate and the ROT command. -/

namespace Sys2Proof.Machine

/-- `Rotate(x, k)` for 1 ≤ k ≤ 31 (rule R80); it is applied to no other amount (rules R81 and R67). -/
def rotate (x : Word) (k : Nat) : Word := (x <<< k) ||| (x >>> (32 - k))

/-- ROT (rule R82): RESULT <- Rotate(A, K); K = 0 raises ILLEGAL. -/
def execRot (k : BitVec 5) (s : State) : Host.Outcome State Fault Refusal :=
  .next <| s.command fun s =>
    if k = 0#5 then .error .illegal
    else .ok { s with result := rotate s.a k.toNat }.setDone

end Sys2Proof.Machine
end

