-- ==== Sys2Proof/Machine/Finalize.lean ====
section
/-! DEFINITION. The finalize avalanche (42_finalize.md): Finalize3, Finalize, the operation the FINAL command and the FINAL
step share, and the FINAL command. -/

namespace Sys2Proof.Machine

/-- `Finalize3(a, b, c)`: the seven rounds of rule R100, statement by statement. -/
def finalize3 (a b c : Word) : Word × Word × Word :=
  let c := c ^^^ b; let c := c - rotate b 14
  let a := a ^^^ c; let a := a - rotate c 11
  let b := b ^^^ a; let b := b - rotate a 25
  let c := c ^^^ b; let c := c - rotate b 16
  let a := a ^^^ c; let a := a - rotate c 4
  let b := b ^^^ a; let b := b - rotate a 14
  let c := c ^^^ b; let c := c - rotate b 24
  (a, b, c)

/-- `Finalize(a, b, c)`: the third component of Finalize3 (rule R100). -/
def finalize (a b c : Word) : Word := (finalize3 a b c).2.2

/-- `(A, B, C) <- Finalize3(A, B, C); RESULT <- C`, with the new C (rules R103 and R125). -/
def opFinal (s : State) : State :=
  let v := finalize3 s.a s.b s.c
  { s.setWords v with result := v.2.2 }

/-- FINAL (rule R103). -/
def execFinal (s : State) : Host.Outcome State Fault Refusal :=
  .next <| s.command fun s => .ok (opFinal s).setDone

end Sys2Proof.Machine
end

