-- ==== Sys2Proof/Machine/Mix.lean ====
section
/-! DEFINITION. The mix round (41_mix.md): the function Mix and the MIX command. -/

namespace Sys2Proof.Machine

/-- `Mix(a, b, c)`: the six rounds of rule R90, statement by statement. -/
def mix (a b c : Word) : Word × Word × Word :=
  let a := a - c; let a := a ^^^ rotate c 4;  let c := c + b
  let b := b - a; let b := b ^^^ rotate a 6;  let a := a + c
  let c := c - b; let c := c ^^^ rotate b 8;  let b := b + a
  let a := a - c; let a := a ^^^ rotate c 16; let c := c + b
  let b := b - a; let b := b ^^^ rotate a 19; let a := a + c
  let c := c - b; let c := c ^^^ rotate b 4;  let b := b + a
  (a, b, c)

/-- MIX (rule R93): (A, B, C) <- Mix(A, B, C). -/
def execMix (s : State) : Host.Outcome State Fault Refusal :=
  .next <| s.command fun s => .ok (s.setWords (mix s.a s.b s.c)).setDone

end Sys2Proof.Machine
end

