-- ==== Sys2Proof/Machine/Driver.lean ====
section
/-! DEFINITION. The driver (43_driver.md): its operations on the state (rules R111 to R115) and the commands NOP, HASH,
INIT, BLOCK and TAIL (rules R117 to R121). -/

namespace Sys2Proof.Machine

/-- `Op_Init` (rule R111). -/
def opInit (s : State) : State :=
  let v := 0xDEADBEEF#32 + s.len + s.seed
  { s with a := v, b := v, c := v, off := 0#32, rem := s.len }

/-- `SelectNext(r)` (rule R112). -/
def selectNext (r : Word) : Phase :=
  if 12#32 < r then .bulk else if 1#32 ≤ r then .tail else .empty

/-- `Op_Block` (rule R113): the three words at OFF are added to A, B and C, the sums are mixed, and twelve bytes move from
REM to OFF. Its precondition REM > 12 is checked by those who perform it. -/
def opBlock (s : State) : Except Cause State := do
  let w0 ← s.loadWord32 s.off.toNat
  let w1 ← s.loadWord32 (s.off.toNat + 4)
  let w2 ← s.loadWord32 (s.off.toNat + 8)
  return { s.setWords (mix (s.a + w0) (s.b + w1) (s.c + w2)) with off := s.off + 12#32, rem := s.rem - 12#32 }

/-- The guards of the tail fold in their order (rule R114). -/
def tailGuards : List Nat := [12, 11, 10, 9, 8, 7, 6, 5, 4, 3, 2, 1]

/-- One guard N of the tail fold: if REM ≥ N, tail byte N − 1 is added to its lane (rule R114). -/
def tailAdd (s : State) (v : Word × Word × Word) (guard : Nat) : Except Cause (Word × Word × Word) :=
  if guard ≤ s.rem.toNat then do
    let x ← s.memRead (s.off.toNat + (guard - 1))
    return addLane v (guard - 1) x
  else .ok v

/-- The words A, B and C after the given guards, in the given order. -/
def tailFold (s : State) (guards : List Nat) : Except Cause (Word × Word × Word) :=
  guards.foldlM (tailAdd s) (s.a, s.b, s.c)

/-- `Op_Tail` (rule R114). Its precondition 1 ≤ REM ≤ 12 is checked by those who perform it. -/
def opTail (s : State) : Except Cause State := do
  let v ← tailFold s tailGuards
  return { s.setWords v with off := s.off + s.rem, rem := 0#32 }

/-- NOP (rule R121): no state changes, DONE included. -/
def execNop (s : State) : Host.Outcome State Fault Refusal :=
  .next <| s.command fun s => .ok s

/-- HASH (rule R120): OOB if LEN > DSIZE; otherwise DONE <- 0 and PHASE <- INIT. -/
def execHash (s : State) : Host.Outcome State Fault Refusal :=
  .next <| s.command fun s =>
    if s.dsize < s.len then .error .oob
    else .ok { s with done := false, phase := .init }

/-- INIT (rule R117): OOB if LEN > DSIZE; otherwise Op_Init. -/
def execInit (s : State) : Host.Outcome State Fault Refusal :=
  .next <| s.command fun s =>
    if s.dsize < s.len then .error .oob
    else .ok (opInit s).setDone

/-- BLOCK (rule R118): SEQ if REM ≤ 12; otherwise Op_Block. -/
def execBlock (s : State) : Host.Outcome State Fault Refusal :=
  .next <| s.command fun s =>
    if s.rem ≤ 12#32 then .error .seq
    else do return (← opBlock s).setDone

/-- TAIL (rule R119): SEQ if REM = 0 or REM > 12; otherwise Op_Tail. -/
def execTail (s : State) : Host.Outcome State Fault Refusal :=
  .next <| s.command fun s =>
    if s.rem = 0#32 ∨ 12#32 < s.rem then .error .seq
    else do return (← opTail s).setDone

end Sys2Proof.Machine
end

