-- ==== Sys2Proof/Machine/CoreAgent.lean ====
section
/-! DEFINITION. The CORE's steps, one per PHASE (rules R122 to R127). -/

namespace Sys2Proof.Machine

/-- `PHASE <- SelectNext(REM)` (rules R122 and R123). -/
def State.choosePhase (s : State) : State := { s with phase := selectNext s.rem }

/-- The end of a run: PHASE <- IDLE and DONE <- 1 (rules R125 and R126). -/
def State.endRun (s : State) : State := { s with phase := .idle, done := true }

/-- A CORE step that performs `op` under a precondition and then writes PHASE. A failing guard there is a fault of the
model (rule R143). -/
def guardedStep (pre : Bool) (op : Except Cause State) (andThen : State → State) : Host.Outcome State Fault Refusal :=
  if pre then
    match op with
    | .ok t => .next (andThen t)
    | .error _ => .fault .failedGuard
  else .fault .failedGuard

/-- One CORE step: the action PHASE names. In PHASE = IDLE the CORE has no step and nothing changes (rule R127). -/
def coreStep (s : State) : Host.Outcome State Fault Refusal :=
  match s.phase with
  | .idle => .next s
  | .init => .next (opInit s).choosePhase
  | .bulk => guardedStep (decide (12#32 < s.rem)) (opBlock s) State.choosePhase
  | .tail => guardedStep (decide (1#32 ≤ s.rem ∧ s.rem ≤ 12#32)) (opTail s) (fun t => { t with phase := .final })
  | .final => .next (opFinal s).endRun
  | .empty => .next { s with result := s.c }.endRun
  | .reserved6 => .fault .impossiblePhase
  | .reserved7 => .fault .impossiblePhase

end Sys2Proof.Machine
end

