-- ==== Sys2Proof/Machine/Dispatch.lean ====
section
/-! DEFINITION. One arm per command: each calls its meaning. -/

namespace Sys2Proof.Machine

def exec (i : Instr) (s : State) : Host.Outcome State Fault Refusal :=
  match i with
  | .nop => Sys2Proof.Machine.execNop s
  | .hash => Sys2Proof.Machine.execHash s
  | .init => Sys2Proof.Machine.execInit s
  | .block => Sys2Proof.Machine.execBlock s
  | .tail => Sys2Proof.Machine.execTail s
  | .final => Sys2Proof.Machine.execFinal s
  | .mix => Sys2Proof.Machine.execMix s
  | .rot k => Sys2Proof.Machine.execRot k s

end Sys2Proof.Machine
end

