-- ==== Sys2Proof/Machine/HostPort.lean ====
section
/-! DEFINITION. What the core does with each event: HOST accesses to the register space (rules R31, R39, R64, R128 and
R129), the HOST's poll branch and its STEPHASH test (rules R71 and R72), reset (rule R160), stores of the platform to
the data space (rules R45 and R166), and the CORE's turn. -/

namespace Sys2Proof.Machine

/-- A HOST write of the command word `w` to CTRL (rule R64): BUSY before decoding, ILLEGAL where the word is not one of
the legal ones, else the command. -/
def ctrlWrite (w : Word) (s : State) : Host.Outcome State Fault Refusal :=
  if s.busy then .next (s.raise .busy)
  else
    match decode w with
    | .ok i => exec i s
    | .error _ => .next (s.raise .illegal)

/-- A HOST write (rules R31, R32, R44). -/
def hostWrite (offset width : Nat) (w : Word) (s : State) : Host.Outcome State Fault Refusal :=
  match Reg.ofAccess offset width with
  | some .ctrl => ctrlWrite w s
  | some r => .next (s.writeReg r w)
  | none => .refused .undefinedAccess

/-- A HOST read returns the register's value and changes nothing of the core (rules R39 and R44). -/
def hostRead (offset width : Nat) (s : State) : Host.Outcome State Fault Refusal :=
  match Reg.ofAccess offset width with
  | some r => .next (s.respond (s.readReg r))
  | none => .refused .undefinedAccess

/-- `BNZ reg[bit], L` that closes the poll loop `L: RD reg` (rules R71 and R72): it reads the register again and, if the
bit is 1, the HOST goes back to `L`. DESIGN CHOICE (log entry 17): between two polls the CORE is given one turn. -/
def hostBranch (offset : Nat) (bit : Fin 32) (s : State) : Host.Outcome State Fault Refusal :=
  match Reg.ofAccess offset 4 with
  | some r =>
    if (s.readReg r).getLsbD bit then
      .next { s.respond (s.readReg r) with inbox := [.core, .read offset 4, .bnz offset bit] ++ s.inbox }
    else .next (s.respond (s.readReg r))
  | none => .refused .undefinedAccess

/-- The event of a command: its word written to CTRL (rules R70 and R71). -/
def Event.command (i : Instr) : Event := .write 0x00 4 (encode i)

/-- STEPHASH's test (rule R72): `RD REM`, then BLOCK and again while REM > 12, `RD C` if REM = 0, else TAIL, FINAL and
`RD RESULT`. DESIGN CHOICE (log entry 17): rule R50 leaves open where the CORE steps among these; the model gives it one
turn each time round the loop, after BLOCK, so that a loop begun while BUSY = 1 does not hold up the run (rule R172), and
none between INIT and the first test or from TAIL to the end. -/
def hostRemTest (s : State) : Host.Outcome State Fault Refusal :=
  let next : List Event :=
    if 12#32 < s.rem then [Event.command .block, .core, .remTest]
    else if s.rem = 0#32 then [.read 0x1C 4]
    else [Event.command .tail, Event.command .final, .read 0x10 4]
  .next { s.respond s.rem with inbox := next ++ s.inbox }

/-- The platform stores a byte of the data space. A run during which the data space changes has no defined result and
is refused (rule R166); storing the byte that is there is no change (log entry 9). -/
def storeData (addr : Nat) (v : Byte) (s : State) : Host.Outcome State Fault Refusal :=
  if s.dsize.toNat ≤ addr then .fault .noSuchDataByte
  else if s.busy ∧ s.mem.read addr ≠ v then .refused .dataChangedDuringRun
  else .next { s with mem := s.mem.write addr v }

/-- One event, performed as one step (rule R50). -/
def perform (e : Event) (s : State) : Host.Outcome State Fault Refusal :=
  match e with
  | .write offset width w => hostWrite offset width w s
  | .read offset width => hostRead offset width s
  | .bnz offset bit => hostBranch offset bit s
  | .remTest => hostRemTest s
  | .reset => .next s.hwReset
  | .storeData addr v => storeData addr v s
  | .core => coreStep s

/-- `WAIT` (rule R72): poll STATUS until BUSY = 0. -/
def waitOps : List Event := [.read 0x04 4, .bnz 0x04 0]

/-- `CLR` (rule R72). -/
def clrOps : List Event := [.write 0x04 4 0x00000006#32]

/-- `RUN seed, len` (rule R72). -/
def runOps (seed len : Word) : List Event :=
  [.write 0x08 4 seed, .write 0x0C 4 len, Event.command .hash] ++ waitOps ++ [.read 0x10 4]

/-- `STEPHASH` (rule R72). -/
def stepHashOps : List Event := [Event.command .init, .remTest]

/-- The event that gives a command word of `nbits` bits to the core: a 32-bit write to CTRL (rule R32). -/
def commandWordEvent (nbits w : Nat) : Event := .write 0x00 4 (BitVec.ofNat 32 (w % 2 ^ nbits))

/-- The next event is performed; with none left the CORE takes its step, and in PHASE = IDLE nothing moves (rules R50,
R127 and R172; log entries 1 and 20). -/
def advance (s : State) : Host.Outcome State Fault Refusal :=
  match s.inbox with
  | [] => coreStep s
  | e :: rest => perform e { s with inbox := rest }

end Sys2Proof.Machine
end

