-- ==== Sys2Proof/Machine/Step.lean ====
section
/-! DEFINITION. One step of the machine, and how a command word is placed where the next step takes it. -/

namespace Sys2Proof.Machine

/-- One step: one atomic transition of one agent (rules R14 and R50). -/
def step (s : State) : Host.Outcome State Fault Refusal := advance s

/-- The state whose next step is the HOST's write of that command word to CTRL (log entry 13). -/
def State.withFetchWord (s : State) (nbits w : Nat) : State :=
  { s with inbox := commandWordEvent nbits w :: s.inbox }

end Sys2Proof.Machine
end

