-- ==== Sys2Proof/Machine/Reference.lean ====
section
/-! DEFINITION. The spec's reference functions, written apart from the state machine: HashRef (rule R134), the step count
S(n) (rule R130), MixInverse (rule R92), and one round of Mix and of Finalize with its role binding (rules R91, R101). -/

namespace Sys2Proof.Machine

/-- `LE32(d, off)`: four bytes of `d` from `off` (rules R43 and R134). -/
def refWord (d : Nat → Byte) (off : Nat) : Word := le32 (d off) (d (off + 1)) (d (off + 2)) (d (off + 3))

/-- `d` from `off`, with every byte at or beyond index `n` of it read as 0: the padded tail of rule R115. -/
def padded (d : Nat → Byte) (off n : Nat) : Nat → Byte := fun j => if j < n then d (off + j) else 0#8

/-- The end of HashRef: c for nothing left, else the tail fold (in rule R115's padded form) and Finalize. -/
def refFinish (d : Nat → Byte) (off rem : Nat) (v : Word × Word × Word) : Word :=
  if rem = 0 then v.2.2
  else
    finalize (v.1 + refWord (padded d off rem) 0) (v.2.1 + refWord (padded d off rem) 4)
      (v.2.2 + refWord (padded d off rem) 8)

/-- The loop of HashRef (rule R134), with `fuel` at least the number of blocks. -/
def refLoop (d : Nat → Byte) : Nat → Nat → Nat → Word × Word × Word → Word
  | 0, off, rem, v => refFinish d off rem v
  | fuel + 1, off, rem, v =>
    if 12 < rem then
      refLoop d fuel (off + 12) (rem - 12)
        (mix (v.1 + refWord d off) (v.2.1 + refWord d (off + 4)) (v.2.2 + refWord d (off + 8)))
    else refFinish d off rem v

/-- `HashRef(d, s, n)` (rule R134). Each round of the loop takes 12 of the n bytes, so n rounds suffice. -/
def hashRef (d : Nat → Byte) (seed n : Word) : Word :=
  let v := 0xDEADBEEF#32 + n + seed
  refLoop d n.toNat 0 n.toNat (v, v, v)

/-- S(n), the number of CORE steps of a HASH run with LEN = n (rule R130). -/
def coreSteps (n : Nat) : Nat := if n = 0 then 2 else 3 + ((n + 11) / 12 - 1)

/-- `MixInverse(a, b, c)` (rule R92). -/
def mixInverse (v : Word × Word × Word) : Word × Word × Word :=
  let a := v.1; let b := v.2.1; let c := v.2.2
  let b := b - a; let c := c ^^^ rotate b 4;  let c := c + b
  let a := a - c; let b := b ^^^ rotate a 19; let b := b + a
  let c := c - b; let a := a ^^^ rotate c 16; let a := a + c
  let b := b - a; let c := c ^^^ rotate b 8;  let c := c + b
  let a := a - c; let b := b ^^^ rotate a 6;  let b := b + a
  let c := c - b; let a := a ^^^ rotate c 4;  let a := a + c
  (a, b, c)

/-- One round `x -= z; x ^= Rotate(z, k); z += y` of Mix on (x, y, z), handed on with the binding rotated one place
(rule R91). -/
def mixRound (v : Word × Word × Word) (k : Nat) : Word × Word × Word :=
  (v.2.1, v.2.2 + v.2.1, (v.1 - v.2.2) ^^^ rotate v.2.2 k)

/-- One round `z ^= y; z -= Rotate(y, k)` of Finalize on (y, z, the third word), handed on with z as the next y and the
third word as the next z (rule R101). -/
def finalRound (v : Word × Word × Word) (k : Nat) : Word × Word × Word :=
  ((v.2.1 ^^^ v.1) - rotate v.1 k, v.2.2, v.1)

end Sys2Proof.Machine
end

