-- ==== Sys2Proof/Safety.lean ====
section
/-! DEFINITION. What claims call a good state and a safe run: the invariant of rules R26 and R143, what PHASE promises
about REM, and a run that meets no fault of the model. -/

namespace Sys2Proof

open Sys2Proof.Machine

/-- What PHASE promises about the registers: BULK is entered only with REM > 12 and TAIL only with 1 ≤ REM ≤ 12 (rules
R112 and R143), INIT only with LEN ≤ DSIZE (rule R120), FINAL and EMPTY only with nothing left (rules R112 and R124),
and 6 and 7 never (rule R27). -/
def phaseOk (s : State) : Prop :=
  match s.phase with
  | .idle => True
  | .init => s.len ≤ s.dsize
  | .bulk => 12#32 < s.rem
  | .tail => 1#32 ≤ s.rem ∧ s.rem ≤ 12#32
  | .final => s.rem = 0#32
  | .empty => s.rem = 0#32
  | .reserved6 => False
  | .reserved7 => False

/-- The invariant of the core. -/
structure Inv (s : State) : Prop where
  /-- OFF + REM ≤ DSIZE, as exact numbers (rule R26). -/
  inBounds : s.off.toNat + s.rem.toNat ≤ s.dsize.toNat
  /-- While input is left, OFF is a multiple of 12 (rule R44). -/
  offAligned : s.rem ≠ 0#32 → s.off.toNat % 12 = 0
  /-- PHASE and REM agree. -/
  phase : phaseOk s
  /-- ECODE is NONE exactly while ERR = 0 (rules R29 and R141). -/
  ecode : s.ecode = .none ↔ s.err = false
  /-- ECODE is no code that is never produced (rule R141). -/
  ecodeLegal : s.ecode ≠ .reserved5 ∧ s.ecode ≠ .reserved6 ∧ s.ecode ≠ .reserved7
  /-- The data space is in its canonical form. -/
  memWf : s.mem.wf
  /-- The data space lists no index it does not have (rule R41). -/
  memBound : ∀ x ∈ s.mem, x.1 < s.dsize.toNat

/-- The state an error leaves (rule R142), spelled out: ERR is set, the first code is kept, nothing else changes. -/
def raised (s : State) (cause : Cause) : State :=
  { s with err := true, ecode := if s.err then s.ecode else .of cause }

/-- The state once the first event has been taken off the inbox. -/
def after (s : State) (rest : List Event) : State := { s with inbox := rest }

/-- The legal command words (rules R63 and R67): the seven without an operand, and `ROT 1` to `ROT 31`. -/
def legalWords : List Word :=
  (List.range 7).map (BitVec.ofNat 32) ++ (List.range 31).map fun j => BitVec.ofNat 32 (7 + 16 * (j + 1))

/-- A HASH run accepted in `s` with no further event from outside: `s'` is the state right after acceptance. -/
def Accepted (s s' : State) : Prop := s.inbox = [] ∧ s.busy = false ∧ exec .hash s = .next s' ∧ s'.busy = true

/-- The value the run in progress will leave in RESULT (rule R134): what is left of HashRef from the words, OFF and REM as
they stand. In PHASE = IDLE no run is in progress and it is RESULT. -/
def pendingResult (s : State) : Word :=
  match s.phase with
  | .idle => s.result
  | .init => hashRef s.mem.read s.seed s.len
  | .bulk => refLoop s.mem.read s.rem.toNat s.off.toNat s.rem.toNat (s.a, s.b, s.c)
  | .tail => refFinish s.mem.read s.off.toNat s.rem.toNat (s.a, s.b, s.c)
  | .final => finalize s.a s.b s.c
  | .empty => s.c
  | .reserved6 => s.result
  | .reserved7 => s.result

/-- The CORE steps the run in progress has still to take (rule R130). -/
def stepsLeft (s : State) : Nat :=
  match s.phase with
  | .idle => 0
  | .init => coreSteps s.len.toNat
  | .bulk => 1 + (s.rem.toNat + 11) / 12
  | .tail => 2
  | .final => 1
  | .empty => 1
  | .reserved6 => 0
  | .reserved7 => 0

/-- The next step of `s` is the CORE's: its turn, or nothing else is to come (rule R50). -/
def CoreTurn (s : State) : Prop := s.inbox = [] ∨ ∃ rest, s.inbox = .core :: rest

/-- A step from `s` is safe when it meets neither an impossible phase nor a failing guard (rules R127 and R143). -/
def SafeStep (s : State) : Prop :=
  step s ≠ .fault .impossiblePhase ∧ step s ≠ .fault .failedGuard

end Sys2Proof
end

