-- ==== Sys2Proof/Certificates/Slice0/Obligations.lean ====
section
/-! DEFINITION. The statements for the provers, one per obligation of OBLIGATIONS.json. Each docstring names the rules of
spec/ it formalises. -/

open Sys2Proof Sys2Proof.Machine

/-! ## Encoding and dispatch -/

/-- A step runs the decoded command: when the next event is the HOST's write of a legal word to CTRL, the step is `exec` of
that command on the state without the event (R32, R64, R50). The same of a word placed by `withFetchWord`. -/
def Obligations.StepRunsTheWrittenCommand : Prop :=
  (∀ (s : State) (rest : List Event) (w : Word) (i : Instr),
    decode w = .ok i → s.inbox = .write 0x00 4 w :: rest → step s = exec i (after s rest)) ∧
  (∀ (s : State) (nbits w : Nat) (i : Instr),
    decodeTableWord nbits w = some i → step (s.withFetchWord nbits w) = exec i s)

/-- Words written out from the patterns of R63 and the examples of R70 and 95_test_vectors.md. -/
def Obligations.SpecWordsDecode : Prop :=
  decode 0x00000000#32 = .ok .nop ∧ decode 0x00000001#32 = .ok .hash ∧ decode 0x00000002#32 = .ok .init ∧
  decode 0x00000003#32 = .ok .block ∧ decode 0x00000004#32 = .ok .tail ∧ decode 0x00000005#32 = .ok .final ∧
  decode 0x00000006#32 = .ok .mix ∧ decode 0x00000047#32 = .ok (.rot 4#5) ∧
  decode 0x00000107#32 = .ok (.rot 16#5) ∧ decode 0x000001F7#32 = .ok (.rot 31#5) ∧
  decode 0x00000007#32 = .error .rotZero ∧ decode 0x00000207#32 = .error .rsvSet ∧
  decode 0x00000008#32 = .error .opReserved ∧ decode 0x0000000F#32 = .error .opReserved ∧
  decode 0x80000001#32 = .error .rsvSet ∧ decode 0x00000016#32 = .error .kMisused

/-- Every legal command is read back from its word, ROT with every amount (R61 to R63). -/
def Obligations.DecodeOfEncode : Prop :=
  ∀ i : Instr, i.wellFormed = true → decode (encode i) = .ok i

/-- Each legal word has one meaning: what the decoder accepts is the encoding of what it answers (R63, R69). -/
def Obligations.EncodeOfDecode : Prop :=
  ∀ (w : Word) (i : Instr), decode w = .ok i → i.wellFormed = true ∧ encode i = w

/-- There are 38 legal words and NOP is the word 0; every other word, written while BUSY = 0, raises ILLEGAL (R67, R68). -/
def Obligations.LegalWordsAreThirtyEight : Prop :=
  legalWords.length = 38 ∧ legalWords.Nodup ∧
  (∀ w : Word, (∃ i, decode w = .ok i) ↔ w ∈ legalWords) ∧
  (∀ w : Word, decode w = .ok .nop ↔ w = 0x00000000#32) ∧
  (∀ (s : State) (rest : List Event) (w : Word), s.inbox = .write 0x00 4 w :: rest → s.busy = false → w ∉ legalWords →
    step s = .next (raised (after s rest) .illegal))

/-- R64: the HOST's write of a word to CTRL, line by line. -/
def Obligations.CtrlWriteDispatch : Prop :=
  ∀ (s : State) (rest : List Event) (w : Word), s.inbox = .write 0x00 4 w :: rest →
    step s =
      if s.busy then .next (raised (after s rest) .busy)
      else if w.extractLsb' 9 23 ≠ 0#23 then .next (raised (after s rest) .illegal)
      else if 8 ≤ (w.extractLsb' 0 4).toNat then .next (raised (after s rest) .illegal)
      else if (w.extractLsb' 0 4).toNat = 7 ∧ w.extractLsb' 4 5 = 0#5 then .next (raised (after s rest) .illegal)
      else if (w.extractLsb' 0 4).toNat ≠ 7 ∧ w.extractLsb' 4 5 ≠ 0#5 then .next (raised (after s rest) .illegal)
      else
        match (w.extractLsb' 0 4).toNat with
        | 0 => exec .nop (after s rest)
        | 1 => exec .hash (after s rest)
        | 2 => exec .init (after s rest)
        | 3 => exec .block (after s rest)
        | 4 => exec .tail (after s rest)
        | 5 => exec .final (after s rest)
        | 6 => exec .mix (after s rest)
        | _ => exec (.rot (w.extractLsb' 4 5)) (after s rest)

/-! ## The commands: result, completion, errors -/

/-- R121: NOP changes nothing, DONE included; BUSY while a run is in progress; its only word is 0. -/
def Obligations.NopRule : Prop :=
  (∀ s : State, s.busy = false → exec .nop s = .next s) ∧
  (∀ s : State, s.busy = true → exec .nop s = .next (raised s .busy)) ∧
  (∀ w : Word, decode w = .ok .nop ↔ w = 0x00000000#32)

/-- R120 and R145: HASH is accepted when BUSY = 0 and LEN ≤ DSIZE and then clears DONE and enters PHASE INIT; otherwise it
raises BUSY or OOB and nothing starts. The run itself is HashRunComputesHashRef. -/
def Obligations.HashAcceptance : Prop :=
  (∀ s : State, s.busy = false → s.len.toNat ≤ s.dsize.toNat →
    exec .hash s = .next { s with done := false, phase := .init }) ∧
  (∀ s : State, s.busy = false → s.dsize.toNat < s.len.toNat → exec .hash s = .next (raised s .oob)) ∧
  (∀ s : State, s.busy = true → exec .hash s = .next (raised s .busy))

/-- R117 and R111: INIT writes 0xDEADBEEF + LEN + SEED to A, B and C, 0 to OFF, LEN to REM and sets DONE; OOB when
LEN > DSIZE; BUSY first; its only word is 2. -/
def Obligations.InitRule : Prop :=
  (∀ s : State, s.busy = false → s.len.toNat ≤ s.dsize.toNat →
    exec .init s = .next { s with
      a := 0xDEADBEEF#32 + s.len + s.seed
      b := 0xDEADBEEF#32 + s.len + s.seed
      c := 0xDEADBEEF#32 + s.len + s.seed
      off := 0#32
      rem := s.len
      done := true }) ∧
  (∀ s : State, s.busy = false → s.dsize.toNat < s.len.toNat → exec .init s = .next (raised s .oob)) ∧
  (∀ s : State, s.busy = true → exec .init s = .next (raised s .busy)) ∧
  (∀ w : Word, decode w = .ok .init ↔ w = 0x00000002#32)

/-- R118 and R113: BLOCK with REM > 12 adds the three little-endian words at OFF to A, B and C, mixes the sums, moves twelve
bytes from REM to OFF (OFF + 12 neither wraps nor passes DSIZE) and sets DONE; SEQ when REM ≤ 12; BUSY first; its only
word is 3. The premise OFF + REM ≤ DSIZE is R26's invariant (InvariantKeptByEveryStep). -/
def Obligations.BlockRule : Prop :=
  (∀ s : State, s.busy = false → 12 < s.rem.toNat → s.off.toNat + s.rem.toNat ≤ s.dsize.toNat →
    (s.off + 12#32).toNat = s.off.toNat + 12 ∧ s.off.toNat + 12 ≤ s.dsize.toNat ∧
    exec .block s = .next { s with
      a := (mix (s.a + refWord s.mem.read s.off.toNat) (s.b + refWord s.mem.read (s.off.toNat + 4))
        (s.c + refWord s.mem.read (s.off.toNat + 8))).1
      b := (mix (s.a + refWord s.mem.read s.off.toNat) (s.b + refWord s.mem.read (s.off.toNat + 4))
        (s.c + refWord s.mem.read (s.off.toNat + 8))).2.1
      c := (mix (s.a + refWord s.mem.read s.off.toNat) (s.b + refWord s.mem.read (s.off.toNat + 4))
        (s.c + refWord s.mem.read (s.off.toNat + 8))).2.2
      off := s.off + 12#32
      rem := s.rem - 12#32
      done := true }) ∧
  (∀ s : State, s.busy = false → s.rem.toNat ≤ 12 → exec .block s = .next (raised s .seq)) ∧
  (∀ s : State, s.busy = true → exec .block s = .next (raised s .busy)) ∧
  (∀ w : Word, decode w = .ok .block ↔ w = 0x00000003#32)

/-- R119, R114 and R115: TAIL with 1 ≤ REM ≤ 12 adds to A, B and C the three little-endian words of the REM bytes at OFF
padded with zero bytes to 12, moves REM to OFF and sets DONE; SEQ when REM = 0 or REM > 12; BUSY first; its only word is 4.
The premise OFF + REM ≤ DSIZE is R26's invariant. -/
def Obligations.TailRule : Prop :=
  (∀ s : State, s.busy = false → 1 ≤ s.rem.toNat → s.rem.toNat ≤ 12 → s.off.toNat + s.rem.toNat ≤ s.dsize.toNat →
    exec .tail s = .next { s with
      a := s.a + refWord (padded s.mem.read s.off.toNat s.rem.toNat) 0
      b := s.b + refWord (padded s.mem.read s.off.toNat s.rem.toNat) 4
      c := s.c + refWord (padded s.mem.read s.off.toNat s.rem.toNat) 8
      off := s.off + s.rem
      rem := 0#32
      done := true }) ∧
  (∀ s : State, s.busy = false → (s.rem.toNat = 0 ∨ 12 < s.rem.toNat) → exec .tail s = .next (raised s .seq)) ∧
  (∀ s : State, s.busy = true → exec .tail s = .next (raised s .busy)) ∧
  (∀ w : Word, decode w = .ok .tail ↔ w = 0x00000004#32)

/-- R103: FINAL writes Finalize3 to A, B and C, the new C to RESULT, and sets DONE, whatever REM is; BUSY first; its only
word is 5. -/
def Obligations.FinalRule : Prop :=
  (∀ s : State, s.busy = false →
    exec .final s = .next { s with
      a := (finalize3 s.a s.b s.c).1
      b := (finalize3 s.a s.b s.c).2.1
      c := (finalize3 s.a s.b s.c).2.2
      result := finalize s.a s.b s.c
      done := true }) ∧
  (∀ s : State, s.busy = true → exec .final s = .next (raised s .busy)) ∧
  (∀ w : Word, decode w = .ok .final ↔ w = 0x00000005#32) ∧
  finalize3 0#32 0#32 0#32 = (0#32, 0#32, 0#32) ∧
  finalize3 0xDF112153#32 0xDEADBEF2#32 0xDEADBEF2#32 = (0x9E0D04DC#32, 0x3C03BE9E#32, 0x0E397631#32)

/-- R93: MIX writes Mix(A, B, C) to A, B and C and sets DONE; BUSY first; its only word is 6. -/
def Obligations.MixRule : Prop :=
  (∀ s : State, s.busy = false →
    exec .mix s = .next { s with
      a := (mix s.a s.b s.c).1
      b := (mix s.a s.b s.c).2.1
      c := (mix s.a s.b s.c).2.2
      done := true }) ∧
  (∀ s : State, s.busy = true → exec .mix s = .next (raised s .busy)) ∧
  (∀ w : Word, decode w = .ok .mix ↔ w = 0x00000006#32) ∧
  mix 0#32 0#32 0#32 = (0#32, 0#32, 0#32) ∧
  mix 0xDEADBEEF#32 0xDEADBEEF#32 0xDEADBEEF#32 = (0x108A17FF#32, 0xC0BFB8EE#32, 0x8C37CF7C#32)

/-- R82: ROT writes Rotate(A, K) to RESULT and sets DONE; K = 0 raises ILLEGAL; BUSY first; its words are 7 with K in bits
8:4; its corner cases A = 0, A = 0xFFFFFFFF, K = 16 and K = 31, and its example. -/
def Obligations.RotRule : Prop :=
  (∀ (s : State) (k : BitVec 5), s.busy = false → k ≠ 0#5 →
    exec (.rot k) s = .next { s with
      result := (s.a <<< k.toNat) ||| (s.a >>> (32 - k.toNat))
      done := true }) ∧
  (∀ s : State, s.busy = false → exec (.rot 0#5) s = .next (raised s .illegal)) ∧
  (∀ (s : State) (k : BitVec 5), s.busy = true → exec (.rot k) s = .next (raised s .busy)) ∧
  (∀ (w : Word) (k : BitVec 5), decode w = .ok (.rot k) ↔ k ≠ 0#5 ∧ w = 0x00000007#32 ||| (k.setWidth 32 <<< 4)) ∧
  (∀ k : BitVec 5, k ≠ 0#5 → rotate 0#32 k.toNat = 0#32 ∧ rotate 0xFFFFFFFF#32 k.toNat = 0xFFFFFFFF#32) ∧
  (∀ x : Word, rotate x 16 = x.extractLsb' 0 16 ++ x.extractLsb' 16 16 ∧ rotate x 31 = x.rotateRight 1) ∧
  rotate 0xDEADBEEF#32 4 = 0xEADBEEFD#32

/-- BLOCK or TAIL whose reads would pass the end of the data space raises OOB by MemRead's guard (R42) and has no other
effect (R142). No reachable state has such an OFF and REM (R26); that the command reports it so is the model's inference,
log entry 6. -/
def Obligations.ReadsPastTheEndRaiseOob : Prop :=
  (∀ s : State, s.busy = false → 12 < s.rem.toNat → s.dsize.toNat < s.off.toNat + 12 →
    exec .block s = .next (raised s .oob)) ∧
  (∀ s : State, s.busy = false → 1 ≤ s.rem.toNat → s.rem.toNat ≤ 12 → s.dsize.toNat < s.off.toNat + s.rem.toNat →
    exec .tail s = .next (raised s .oob))

/-- What every command leaves unchanged when it answers a next state (R21 to R28, R82, R93, R103, R117 to R121): SEED, LEN,
the data space and every byte of it always; the state words but for INIT, BLOCK, TAIL, FINAL and MIX; OFF and REM but for
INIT, BLOCK and TAIL; RESULT but for FINAL and ROT; PHASE but for HASH; DONE for NOP. -/
def Obligations.CommandFrames : Prop :=
  ∀ (i : Instr) (s t : State), exec i s = .next t →
    (t.seed = s.seed ∧ t.len = s.len ∧ t.dsize = s.dsize ∧ t.mem = s.mem ∧ t.inbox = s.inbox ∧ t.readBack = s.readBack ∧
      ∀ addr : Nat, t.memRead addr = s.memRead addr) ∧
    ((i = .nop ∨ i = .hash ∨ ∃ k, i = .rot k) → t.a = s.a ∧ t.b = s.b ∧ t.c = s.c) ∧
    (i ≠ .init → i ≠ .block → i ≠ .tail → t.off = s.off ∧ t.rem = s.rem) ∧
    (i ≠ .final → (∀ k, i ≠ .rot k) → t.result = s.result) ∧
    (i ≠ .hash → t.phase = s.phase) ∧
    (i = .nop → t.done = s.done)

/-- R140 and R142: no command stops the machine; an error is a next state too. -/
def Obligations.CommandsNeverStop : Prop :=
  ∀ (i : Instr) (s : State), ∃ t, exec i s = .next t

/-! ## Errors -/

/-- R142: a HOST write that raises an error changes no state but ERR and ECODE, whatever ERR and ECODE hold. Which writes
raise one is told by the same write with ERR and ECODE cleared: `u` is what it answers. If `u` has ERR set, the write in `s`
raises the cause `u` records, keeps the first code and changes nothing else; if not, it raises none, leaves ERR and ECODE
as they are, and does to the rest of the state what it does in `u`. (A write to STATUS raises no error: StatusWrites.) -/
def Obligations.ErrorsArePrecise : Prop :=
  ∀ (s t : State) (rest : List Event) (offset : Nat) (w : Word),
    s.inbox = .write offset 4 w :: rest → offset ≠ 0x04 → step s = .next t →
    ∃ u, step { s with err := false, ecode := .none } = .next u ∧
      (u.err = true → ∃ cause, u.ecode = .of cause ∧ t = raised (after s rest) cause) ∧
      (u.err = false → t = { u with err := s.err, ecode := s.ecode })

/-- R147: while BUSY = 1 a write to CTRL, SEED, LEN, A, B or C is dropped and raises BUSY, so PHASE and every register of
the run stay; a write to STATUS is performed; a write to a read-only or reserved register is ignored without error. -/
def Obligations.BusyWritesAreDropped : Prop :=
  ∀ (s : State) (rest : List Event) (offset : Nat) (w : Word),
    s.inbox = .write offset 4 w :: rest → s.busy = true →
    (offset ∈ [0x00, 0x08, 0x0C, 0x14, 0x18, 0x1C] → step s = .next (raised (after s rest) .busy)) ∧
    (offset = 0x04 → step s = .next { after s rest with
      done := s.done && !w.getLsbD 1
      err := s.err && !w.getLsbD 2
      ecode := if w.getLsbD 2 then .none else s.ecode }) ∧
    (offset ∈ [0x10, 0x20, 0x24, 0x28, 0x2C, 0x30, 0x34, 0x38, 0x3C] → step s = .next (after s rest))

/-- R150: an error pending in STATUS does not block a command: with ERR set the command answers the same next state, ERR and
ECODE apart. -/
def Obligations.PendingErrorDoesNotBlock : Prop :=
  ∀ (i : Instr) (s t : State) (code : ECode), s.err = false → exec i s = .next t →
    ∃ t', exec i { s with err := true, ecode := code } = .next t' ∧ t'.err = true ∧ t'.ecode = code ∧
      { t' with err := t.err, ecode := t.ecode } = t

/-! ## The register space -/

/-- R129: a write to SEED, LEN, A, B or C writes all 32 bits and nothing else while BUSY = 0, and is dropped with BUSY
otherwise; a LEN greater than DSIZE is taken, and the next INIT or HASH refuses it. -/
def Obligations.RegisterWrites : Prop :=
  (∀ (s : State) (rest : List Event) (w : Word), s.busy = false →
    (s.inbox = .write 0x08 4 w :: rest → step s = .next { after s rest with seed := w }) ∧
    (s.inbox = .write 0x0C 4 w :: rest → step s = .next { after s rest with len := w }) ∧
    (s.inbox = .write 0x14 4 w :: rest → step s = .next { after s rest with a := w }) ∧
    (s.inbox = .write 0x18 4 w :: rest → step s = .next { after s rest with b := w }) ∧
    (s.inbox = .write 0x1C 4 w :: rest → step s = .next { after s rest with c := w })) ∧
  (∀ (s : State) (rest : List Event) (w : Word) (offset : Nat), s.busy = true →
    offset ∈ [0x08, 0x0C, 0x14, 0x18, 0x1C] → s.inbox = .write offset 4 w :: rest →
    step s = .next (raised (after s rest) .busy)) ∧
  (∀ (s t : State) (rest : List Event) (w : Word), s.busy = false → s.inbox = .write 0x0C 4 w :: rest →
    s.dsize.toNat < w.toNat → step s = .next t →
    exec .init t = .next (raised t .oob) ∧ exec .hash t = .next (raised t .oob))

/-- R128: a write to STATUS clears DONE by bit 1, ERR and ECODE by bit 2, and changes nothing else, BUSY or not; and ERR is
cleared by no other step but reset. -/
def Obligations.StatusWrites : Prop :=
  (∀ (s : State) (rest : List Event) (w : Word), s.inbox = .write 0x04 4 w :: rest →
    step s = .next { after s rest with
      done := s.done && !w.getLsbD 1
      err := s.err && !w.getLsbD 2
      ecode := if w.getLsbD 2 then .none else s.ecode }) ∧
  (∀ s t : State, step s = .next t → s.err = true → t.err = false →
    ∃ rest, s.inbox = .reset :: rest ∨ ∃ w, s.inbox = .write 0x04 4 w :: rest ∧ w.getLsbD 2 = true)

/-- R31: a write to a read-only or reserved register changes nothing and raises no error, BUSY or not. -/
def Obligations.ReadOnlyWritesIgnored : Prop :=
  ∀ (s : State) (rest : List Event) (offset : Nat) (w : Word),
    offset ∈ [0x10, 0x20, 0x24, 0x28, 0x2C, 0x30, 0x34, 0x38, 0x3C] → s.inbox = .write offset 4 w :: rest →
    step s = .next (after s rest)

/-- R39 and R31: a HOST read of each offset returns that register's current value, BUSY or not, and changes nothing of the
core; RESULT keeps its value through every CORE step but FINAL and EMPTY. -/
def Obligations.HostReads : Prop :=
  (∀ (s : State) (rest : List Event) (offset : Nat) (v : Word), s.inbox = .read offset 4 :: rest →
    (offset, v) ∈ [(0x00, 0#32), (0x04, s.statusWord), (0x08, s.seed), (0x0C, s.len), (0x10, s.result), (0x14, s.a),
      (0x18, s.b), (0x1C, s.c), (0x20, s.off), (0x24, s.rem), (0x28, s.dsize), (0x2C, 0#32), (0x30, 0#32), (0x34, 0#32),
      (0x38, 0#32), (0x3C, 0#32)] →
    step s = .next { after s rest with readBack := some v }) ∧
  (∀ s t : State, coreStep s = .next t → s.phase ≠ .final → s.phase ≠ .empty → t.result = s.result)

/-- R29, R27 and R141: the fields of STATUS, and that its reserved bits read 0. -/
def Obligations.StatusLayout : Prop :=
  ∀ s : State,
    s.statusWord.getLsbD 0 = decide (s.phase ≠ .idle) ∧ s.statusWord.getLsbD 1 = s.done ∧
    s.statusWord.getLsbD 2 = s.err ∧ s.statusWord.getLsbD 3 = false ∧ s.statusWord.getLsbD 7 = false ∧
    (∀ j, 11 ≤ j → s.statusWord.getLsbD j = false) ∧
    (s.statusWord.extractLsb' 8 3).toNat = (match s.phase with
      | .idle => 0 | .init => 1 | .bulk => 2 | .tail => 3 | .final => 4 | .empty => 5 | .reserved6 => 6 | .reserved7 => 7) ∧
    (s.statusWord.extractLsb' 4 3).toNat = (match s.ecode with
      | .none => 0 | .of .illegal => 1 | .of .oob => 2 | .of .seq => 3 | .of .busy => 4
      | .reserved5 => 5 | .reserved6 => 6 | .reserved7 => 7)

/-- R44 and R31: an access of another width than 32 bits, or at another offset than the multiples of 4 of the 64-byte
register space, is refused; every other access is performed. That an offset of 64 or more is such "another offset" is the
model's reading, log entry 8. -/
def Obligations.UndefinedAccessesRefused : Prop :=
  (∀ (s : State) (rest : List Event) (offset width : Nat) (w : Word),
    (width ≠ 4 ∨ offset % 4 ≠ 0 ∨ 64 ≤ offset) →
    (s.inbox = .write offset width w :: rest → step s = .refused .undefinedAccess) ∧
    (s.inbox = .read offset width :: rest → step s = .refused .undefinedAccess)) ∧
  (∀ (s : State) (rest : List Event) (offset : Nat) (w : Word), offset % 4 = 0 → offset < 64 →
    (s.inbox = .write offset 4 w :: rest ∨ s.inbox = .read offset 4 :: rest) → ∃ t, step s = .next t)

/-- R71 and R72: the HOST's branch at the end of a poll loop reads the register again and goes back to the loop's read while
the bit is 1, leaving it when the bit is 0. That the CORE gets one turn between two polls is the model's choice, log entry
17. -/
def Obligations.PollLoopBranch : Prop :=
  ∀ (s : State) (rest : List Event), s.inbox = .bnz 0x04 0 :: rest →
    step s = .next { after s rest with
      readBack := some s.statusWord
      inbox := if s.busy then .core :: .read 0x04 4 :: .bnz 0x04 0 :: rest else rest }

/-- R72: STEPHASH's test reads REM and goes on with BLOCK and the test again while REM > 12, with `RD C` if REM = 0, else
with TAIL, FINAL and `RD RESULT`. That the CORE gets one turn each time round the loop is the model's choice, log entry 17. -/
def Obligations.StepHashTest : Prop :=
  ∀ (s : State) (rest : List Event), s.inbox = .remTest :: rest →
    step s = .next { after s rest with
      readBack := some s.rem
      inbox :=
        if 12 < s.rem.toNat then .write 0x00 4 0x00000003#32 :: .core :: .remTest :: rest
        else if s.rem.toNat = 0 then .read 0x1C 4 :: rest
        else .write 0x00 4 0x00000004#32 :: .write 0x00 4 0x00000005#32 :: .read 0x10 4 :: rest }

/-! ## Reset and the invariant -/

/-- R160 and R38: the reset input, in every state, BUSY or not, sets every register to its reset value, abandons a run in
progress, and leaves the data space. -/
def Obligations.ResetEverything : Prop :=
  ∀ (s : State) (rest : List Event), s.inbox = .reset :: rest →
    ∃ t : State, step s = .next t ∧
      t.a = 0x00000000#32 ∧ t.b = 0x00000000#32 ∧ t.c = 0x00000000#32 ∧ t.seed = 0x00000000#32 ∧ t.len = s.dsize ∧
      t.off = 0#32 ∧ t.rem = 0#32 ∧ t.result = 0x00000000#32 ∧ t.statusWord = 0x00000000#32 ∧ t.phase = .idle ∧
      t.busy = false ∧ t.done = false ∧ t.err = false ∧ t.ecode = .none ∧ t.dsize = s.dsize ∧ t.mem = s.mem ∧
      coreStep t = .next t

/-- R163 and its decision D18: before the first reset the registers may hold anything. Every state, but for the
events to come and the last value read, is the state at power-up for some PREBOOT; so a statement over all states covers the
core before its first reset (log entry 11). And the first reset leaves R38's values, whatever PREBOOT is. -/
def Obligations.PowerUpIsAnyValue : Prop :=
  (∀ s : State, ∃ p, { State.powerUpFor p s.dsize s.mem with inbox := s.inbox, readBack := s.readBack } = s) ∧
  (∀ (p : Preboot) (dsize : Word) (mem : Memory),
    step { State.powerUpFor p dsize mem with inbox := [.reset] } = .next (State.resetFor dsize mem)) ∧
  step { State.powerUp with inbox := [.reset] } = .next State.reset

/-- The invariant holds after reset on every platform, whatever its DSIZE and data space (R26, R38). -/
def Obligations.InvariantAtReset : Prop :=
  (∀ (dsize : Word) (mem : Memory), mem.wf → (∀ x ∈ mem, x.1 < dsize.toNat) → Inv (State.resetFor dsize mem)) ∧
  Inv State.reset

/-- Every step keeps the invariant, whatever the HOST, the platform or the CORE does: OFF + REM ≤ DSIZE; OFF a multiple of
12 while input is left; what PHASE promises about REM and LEN; ECODE = NONE exactly while ERR = 0, and never 5 to 7; the
data space in its canonical form and inside DSIZE (R26, R44, R112, R143, R141). -/
def Obligations.InvariantKeptByEveryStep : Prop :=
  ∀ s t : State, Inv s → step s = .next t → Inv t

/-- R143: where the invariant holds a CORE step raises no error and meets no fault; where a guard of a CORE step fails, the
step is a fault of the model, not a result. -/
def Obligations.CoreStepsRaiseNoError : Prop :=
  (∀ s : State, Inv s → ∃ t, coreStep s = .next t ∧ t.err = s.err ∧ t.ecode = s.ecode) ∧
  (∀ s : State, Inv s → SafeStep s) ∧
  (∀ s : State, s.phase = .bulk → (s.rem.toNat ≤ 12 ∨ s.dsize.toNat < s.off.toNat + 12) →
    coreStep s = .fault .failedGuard) ∧
  (∀ s : State, s.phase = .tail →
    (s.rem.toNat = 0 ∨ 12 < s.rem.toNat ∨ s.dsize.toNat < s.off.toNat + s.rem.toNat) → coreStep s = .fault .failedGuard)

/-- R127: in PHASE = IDLE the CORE has no step; while BUSY = 1 it has one, and never waits on the HOST; PHASE 6 and 7 are
faults, and no step from a state that meets the invariant writes them. -/
def Obligations.CoreHasOneStepWhileBusy : Prop :=
  (∀ s : State, s.phase = .idle → coreStep s = .next s) ∧
  (∀ s : State, Inv s → s.busy = true → ∃ t, coreStep s = .next t ∧ t ≠ s) ∧
  (∀ s : State, s.phase = .reserved6 ∨ s.phase = .reserved7 → coreStep s = .fault .impossiblePhase) ∧
  (∀ s t : State, Inv s → step s = .next t → t.phase ≠ .reserved6 ∧ t.phase ≠ .reserved7)

/-- R50 and R172: with no event to come the step is the CORE's, and a turn given to the CORE is its step on the state
without that event. That the order of the agents' steps stands in the State is the model's choice, log entries 1 and 20. -/
def Obligations.TurnsOfTheCore : Prop :=
  (∀ s : State, s.inbox = [] → step s = coreStep s) ∧
  (∀ (s : State) (rest : List Event), s.inbox = .core :: rest → step s = coreStep (after s rest))

/-- R45 and R33: DSIZE never changes; nothing but a store of the platform changes the data space; while BUSY = 1 no byte of
it changes at all, since a change is refused (R166). -/
def Obligations.DataSpaceStable : Prop :=
  (∀ s t : State, step s = .next t → t.dsize = s.dsize) ∧
  (∀ s t : State, step s = .next t → (∀ addr v rest, s.inbox ≠ .storeData addr v :: rest) → t.mem = s.mem) ∧
  (∀ s t : State, s.mem.wf → s.busy = true → step s = .next t → ∀ addr : Nat, t.mem.read addr = s.mem.read addr)

/-- R166 and R45: a store of the platform that changes a byte while BUSY = 1 is refused; while BUSY = 0 it writes that byte
and no other, and no register. -/
def Obligations.PlatformStores : Prop :=
  (∀ (s : State) (rest : List Event) (addr : Nat) (v : Byte), s.inbox = .storeData addr v :: rest →
    addr < s.dsize.toNat → s.busy = true → s.mem.read addr ≠ v → step s = .refused .dataChangedDuringRun) ∧
  (∀ (s : State) (rest : List Event) (addr : Nat) (v : Byte), s.inbox = .storeData addr v :: rest →
    addr < s.dsize.toNat → s.busy = false → s.mem.wf →
    ∃ t, step s = .next t ∧ t.mem.read addr = v ∧ (∀ other, other ≠ addr → t.mem.read other = s.mem.read other) ∧
      { t with mem := s.mem } = after s rest)

/-- R168, R22 and R23: the core never writes SEED or LEN: no command and no CORE step changes them. -/
def Obligations.CoreNeverWritesSeedOrLen : Prop :=
  (∀ (i : Instr) (s t : State), exec i s = .next t → t.seed = s.seed ∧ t.len = s.len) ∧
  (∀ s t : State, coreStep s = .next t → t.seed = s.seed ∧ t.len = s.len)

/-- R28 and R168: RESULT changes only by FINAL and ROT commands, by the CORE's FINAL and EMPTY steps, and by reset. -/
def Obligations.ResultHasFewWriters : Prop :=
  ∀ s t : State, step s = .next t → t.result ≠ s.result →
    (∃ rest, s.inbox = .reset :: rest) ∨
    (∃ (rest : List Event) (w : Word) (i : Instr), s.inbox = .write 0x00 4 w :: rest ∧ decode w = .ok i ∧ s.busy = false ∧
      (i = .final ∨ ∃ k, i = .rot k)) ∨
    (CoreTurn s ∧ (s.phase = .final ∨ s.phase = .empty))

/-! ## The CORE steps and the HASH run -/

/-- R112: SelectNext, and that after a bulk block it never answers EMPTY. -/
def Obligations.NextPhaseSelection : Prop :=
  (∀ r : Word, 12 < r.toNat → selectNext r = .bulk) ∧
  (∀ r : Word, 1 ≤ r.toNat → r.toNat ≤ 12 → selectNext r = .tail) ∧
  (∀ r : Word, r.toNat = 0 → selectNext r = .empty) ∧
  (∀ r : Word, 12 < r.toNat → selectNext (r - 12#32) = .bulk ∨ selectNext (r - 12#32) = .tail)

/-- R122 to R126: the five CORE steps, register by register. The premises on OFF and REM are R26's invariant and what PHASE
promises (InvariantKeptByEveryStep). -/
def Obligations.CoreStepsByPhase : Prop :=
  (∀ s : State, s.phase = .init →
    coreStep s = .next { s with
      a := 0xDEADBEEF#32 + s.len + s.seed
      b := 0xDEADBEEF#32 + s.len + s.seed
      c := 0xDEADBEEF#32 + s.len + s.seed
      off := 0#32
      rem := s.len
      phase := selectNext s.len }) ∧
  (∀ s : State, s.phase = .bulk → 12 < s.rem.toNat → s.off.toNat + s.rem.toNat ≤ s.dsize.toNat →
    coreStep s = .next { s.setWords (mix (s.a + refWord s.mem.read s.off.toNat)
        (s.b + refWord s.mem.read (s.off.toNat + 4)) (s.c + refWord s.mem.read (s.off.toNat + 8))) with
      off := s.off + 12#32
      rem := s.rem - 12#32
      phase := selectNext (s.rem - 12#32) }) ∧
  (∀ s : State, s.phase = .tail → 1 ≤ s.rem.toNat → s.rem.toNat ≤ 12 → s.off.toNat + s.rem.toNat ≤ s.dsize.toNat →
    coreStep s = .next { s with
      a := s.a + refWord (padded s.mem.read s.off.toNat s.rem.toNat) 0
      b := s.b + refWord (padded s.mem.read s.off.toNat s.rem.toNat) 4
      c := s.c + refWord (padded s.mem.read s.off.toNat s.rem.toNat) 8
      off := s.off + s.rem
      rem := 0#32
      phase := .final }) ∧
  (∀ s : State, s.phase = .final →
    coreStep s = .next { s.setWords (finalize3 s.a s.b s.c) with
      result := finalize s.a s.b s.c
      phase := .idle
      done := true }) ∧
  (∀ s : State, s.phase = .empty → coreStep s = .next { s with result := s.c, phase := .idle, done := true })

/-- R134 and R173: a HASH run accepted with no event from outside ends after S(LEN) CORE steps with RESULT = HashRef(DATA,
SEED, LEN), DONE = 1, BUSY = 0, the whole input consumed, and ERR and ECODE as they were. RunSurvivesOtherSteps speaks of runs
with events from outside. -/
def Obligations.HashRunComputesHashRef : Prop :=
  ∀ s : State, s.inbox = [] → s.busy = false → s.len.toNat ≤ s.dsize.toNat →
    ∃ s' t : State, Accepted s s' ∧ core.run (coreSteps s.len.toNat) s' = .next t ∧
      t.result = hashRef s.mem.read s.seed s.len ∧ t.done = true ∧ t.phase = .idle ∧ t.off = s.len ∧ t.rem = 0#32 ∧
      t.seed = s.seed ∧ t.len = s.len ∧ t.mem = s.mem ∧ t.err = s.err ∧ t.ecode = s.ecode

/-- R130: a HASH run with LEN = n takes exactly S(n) CORE steps: it is busy before each of them and idle after the last;
and the values of S the rule gives. -/
def Obligations.HashRunTakesExactlyS : Prop :=
  (∀ s s' : State, Accepted s s' →
    (∀ k, k < coreSteps s.len.toNat → ∃ t : State, core.run k s' = .next t ∧ t.busy = true) ∧
    ∃ t : State, core.run (coreSteps s.len.toNat) s' = .next t ∧ t.busy = false) ∧
  coreSteps 0 = 2 ∧ (∀ n, 1 ≤ n → coreSteps n = 3 + (n + 11) / 12 - 1) ∧
  coreSteps 12 = 3 ∧ coreSteps 13 = 4 ∧ coreSteps 24 = 4 ∧ coreSteps 25 = 5

/-- R162: a HASH issued right after reset, from whatever state, with no register written, ends with HashRef(DATA, 0, DSIZE) in
RESULT. -/
def Obligations.HashAfterReset : Prop :=
  ∀ s : State, s.inbox = [.reset, .write 0x00 4 0x00000001#32] →
    ∃ t : State, core.run (2 + coreSteps s.dsize.toNat) s = .next t ∧ t.result = hashRef s.mem.read 0#32 s.dsize ∧
      t.done = true ∧ t.err = false ∧ t.phase = .idle ∧ t.mem = s.mem

/-- R173, R134, R130, R147 and R39: a HASH run gives its result whatever comes between its steps. At acceptance the value
pending is HashRef(DATA, SEED, LEN) and S(LEN) steps are left. Every step of a run but a reset (HOST reads, writes and polls,
refused commands, stores of the platform, the CORE's steps) keeps SEED and LEN, and either keeps the run going, with the
same value pending and one CORE step fewer left exactly if it is the CORE's, or is the CORE's last and leaves the pending
value in RESULT with DONE set. -/
def Obligations.RunSurvivesOtherSteps : Prop :=
  (∀ s t : State, s.busy = false → exec .hash s = .next t → t.busy = true →
    pendingResult t = hashRef s.mem.read s.seed s.len ∧ stepsLeft t = coreSteps s.len.toNat) ∧
  (∀ s t : State, Inv s → s.busy = true → step s = .next t → (∀ rest, s.inbox ≠ .reset :: rest) →
    t.seed = s.seed ∧ t.len = s.len ∧
    (t.busy = true → pendingResult t = pendingResult s ∧ t.result = s.result ∧
      (CoreTurn s → stepsLeft t + 1 = stepsLeft s) ∧ (¬CoreTurn s → stepsLeft t = stepsLeft s)) ∧
    (t.busy = false → CoreTurn s ∧ stepsLeft s = 1 ∧ t.result = pendingResult s ∧ t.done = true))

/-- R172 and R130: every run ends. From every state that meets the invariant with BUSY = 1, whatever events are still to come
(poll loops and STEPHASH loops among them, which bring new events), the machine comes to BUSY = 0, by the CORE's last step or
by a reset, unless the HOST or the platform does before that what the model refuses. The order in which the agents step
stands in the State, log entries 1 and 17. -/
def Obligations.EveryRunEnds : Prop :=
  ∀ s : State, Inv s → s.busy = true →
    ∃ n, (∃ t : State, core.run n s = .next t ∧ t.busy = false) ∨
      core.run n s = .refused .undefinedAccess ∨ core.run n s = .refused .dataChangedDuringRun ∨
      core.run n s = .fault .noSuchDataByte

/-- R134: STEPHASH gives HashRef(DATA, SEED, LEN) too: the HOST's last read returns it, from RESULT, or from C if LEN = 0. -/
def Obligations.StepHashGivesHashRef : Prop :=
  ∀ s : State, s.inbox = stepHashOps → s.busy = false → s.len.toNat ≤ s.dsize.toNat →
    ∃ (n : Nat) (t : State), core.run n s = .next t ∧ t.inbox = [] ∧ t.busy = false ∧
      t.readBack = some (hashRef s.mem.read s.seed s.len) ∧
      (s.len ≠ 0#32 → t.result = hashRef s.mem.read s.seed s.len) ∧
      (s.len = 0#32 → t.c = hashRef s.mem.read s.seed s.len) ∧ t.err = s.err ∧ t.mem = s.mem

/-- R132 and R131: the result of a HASH run depends only on SEED, LEN and DATA[0 .. LEN − 1]: HashRef, the value of every
run that ends (RunSurvivesOtherSteps), reads no byte at LEN or above, and two accepted runs that agree on these end with
the same RESULT, whatever the other registers, DSIZE and the rest of the data space hold. -/
def Obligations.LengthPrefixConsistency : Prop :=
  (∀ (d₁ d₂ : Nat → Byte) (seed n : Word), (∀ addr, addr < n.toNat → d₁ addr = d₂ addr) →
    hashRef d₁ seed n = hashRef d₂ seed n) ∧
  ∀ s₁ s₂ t₁ t₂ : State, Accepted s₁ t₁ → Accepted s₂ t₂ → s₁.seed = s₂.seed → s₁.len = s₂.len →
    (∀ addr, addr < s₁.len.toNat → s₁.mem.read addr = s₂.mem.read addr) →
    ∃ u₁ u₂ : State, core.run (coreSteps s₁.len.toNat) t₁ = .next u₁ ∧ core.run (coreSteps s₂.len.toNat) t₂ = .next u₂ ∧
      u₁.phase = .idle ∧ u₂.phase = .idle ∧ u₁.result = u₂.result

/-- R133: a run with LEN = 12 skips the bulk phase; a run with LEN = 13 has exactly one bulk step. -/
def Obligations.BlockSizeBoundary : Prop :=
  ∀ s s' : State, Accepted s s' →
    (s.len = 12#32 → ∃ t1 t2 t3 : State, s'.phase = .init ∧ core.run 1 s' = .next t1 ∧ t1.phase = .tail ∧
      core.run 2 s' = .next t2 ∧ t2.phase = .final ∧ core.run 3 s' = .next t3 ∧ t3.phase = .idle) ∧
    (s.len = 13#32 → ∃ t1 t2 t3 t4 : State, s'.phase = .init ∧ core.run 1 s' = .next t1 ∧ t1.phase = .bulk ∧
      core.run 2 s' = .next t2 ∧ t2.phase = .tail ∧ t2.rem = 1#32 ∧ core.run 3 s' = .next t3 ∧ t3.phase = .final ∧
      core.run 4 s' = .next t4 ∧ t4.phase = .idle)

/-- R116: exactly when LEN = 0 at Init the run takes the empty path, and it returns C unfinalized, 0xDEADBEEF + SEED. -/
def Obligations.EmptyInputUnfinalized : Prop :=
  (∀ s t : State, s.phase = .init → coreStep s = .next t → (t.phase = .empty ↔ s.len = 0#32)) ∧
  (∀ s s' : State, Accepted s s' → s.len = 0#32 → ∃ t : State, core.run 2 s' = .next t ∧ t.phase = .idle ∧
    t.done = true ∧ t.result = 0xDEADBEEF#32 + s.seed ∧ t.result = t.c)

/-- R156 and R134: the single-step commands do to A, B, C, OFF, REM and RESULT what the CORE's steps do. Where the CORE's
step in that phase answers `t`, the command answers `t` with PHASE left alone and DONE set. -/
def Obligations.SingleStepsMirrorCoreSteps : Prop :=
  ∀ s t : State, s.phase = .idle →
    (s.len.toNat ≤ s.dsize.toNat → coreStep { s with phase := .init } = .next t →
      exec .init s = .next { t with phase := .idle, done := true }) ∧
    (coreStep { s with phase := .bulk } = .next t → exec .block s = .next { t with phase := .idle, done := true }) ∧
    (coreStep { s with phase := .tail } = .next t → exec .tail s = .next { t with phase := .idle, done := true }) ∧
    (coreStep { s with phase := .final } = .next t → exec .final s = .next t)

/-! ## The datapath -/

/-- R80: Rotate is the formula of the rule, and bit i of its result is bit (i − k) mod 32 of x. -/
def Obligations.RotateBits : Prop :=
  ∀ (x : Word) (k i : Nat), 1 ≤ k → k ≤ 31 → i < 32 →
    rotate x k = (x <<< k) ||| (x >>> (32 - k)) ∧
    (rotate x k).getLsbD i = x.getLsbD (((i : Int) - k) % 32).toNat

/-- R83: Rotate(·, k) is a bijection with inverse Rotate(·, 32 − k); rotations add up; the number of 1 bits is kept; only
the words of equal bits are fixed by every rotation. -/
def Obligations.RotateLaws : Prop :=
  (∀ k, 1 ≤ k → k ≤ 31 → Function.Bijective (fun x : Word => rotate x k) ∧
    ∀ x : Word, rotate (rotate x k) (32 - k) = x) ∧
  (∀ (x : Word) (j k : Nat), 1 ≤ j → 1 ≤ k → j + k ≤ 31 → rotate (rotate x j) k = rotate x (j + k)) ∧
  (∀ (x : Word) (k : Nat), 1 ≤ k → k ≤ 31 →
    ((List.range 32).countP fun i => (rotate x k).getLsbD i) = (List.range 32).countP fun i => x.getLsbD i) ∧
  (∀ x : Word, (∀ k, 1 ≤ k → k ≤ 31 → rotate x k = x) ↔ x = 0x00000000#32 ∨ x = 0xFFFFFFFF#32)

/-- R92: MixInverse undoes Mix, and Mix undoes MixInverse, so Mix is a bijection on the 96-bit state; the zero state is a
fixed point. -/
def Obligations.MixIsReversible : Prop :=
  (∀ a b c : Word, mixInverse (mix a b c) = (a, b, c)) ∧
  Function.Bijective (fun v : Word × Word × Word => mix v.1 v.2.1 v.2.2) ∧
  mix 0#32 0#32 0#32 = (0#32, 0#32, 0#32)

/-- R102: Finalize3 is a bijection on the 96-bit state, and the zero state is a fixed point. -/
def Obligations.FinalizeThreeIsBijective : Prop :=
  Function.Bijective (fun v : Word × Word × Word => finalize3 v.1 v.2.1 v.2.2) ∧
  finalize3 0#32 0#32 0#32 = (0#32, 0#32, 0#32)

/-- R91 and R101: Mix is six rounds of one shape with the role binding rotated after each, and Finalize3 seven rounds of one
shape with y the word before z in the cycle a, b, c. -/
def Obligations.RoundsFollowTheRoleBinding : Prop :=
  (∀ a b c : Word, mix a b c = [4, 6, 8, 16, 19, 4].foldl mixRound (a, b, c)) ∧
  (∀ a b c : Word, ((finalize3 a b c).2.2, (finalize3 a b c).1, (finalize3 a b c).2.1)
    = [14, 11, 25, 16, 4, 14, 24].foldl finalRound (b, c, a))

/-- R170 and R115: the order of the twelve tail guards does not matter: any order gives the same words, or the same
error. -/
def Obligations.TailGuardOrderIrrelevant : Prop :=
  ∀ (s : State) (guards : List Nat), guards.Perm tailGuards → tailFold s guards = tailFold s tailGuards
end

