-- ==== Sys2Proof/Laws/Decode.lean ====
section
/-! SUPPORT. A command word is its three fields, and what the decoder answers on them. -/

namespace Sys2Proof

/-- A word is RSV, K and OP put together (rule R61). -/
theorem word_eq_fields (w : Word) : w = rsvField w ++ kField w ++ opField w := by
  apply BitVec.eq_of_getLsbD_eq
  intro i hi
  simp only [rsvField, kField, opField, BitVec.getLsbD_append, BitVec.getLsbD_extractLsb']
  by_cases h1 : i < 4
  · simp [h1]
  · by_cases h2 : i - 4 < 5
    · simp [h1, h2, show 4 + (i - 4) = i by omega]
    · simp [h1, h2, show i < 32 by omega, show i - 4 - 5 < 23 by omega, show 9 + (i - 4 - 5) = i by omega]

theorem decodeFields_rsv {rsv : BitVec 23} (h : rsv ≠ 0#23) (op : BitVec 4) (k : BitVec 5) :
    decodeFields rsv op k = .error .rsvSet := if_pos h

/-- What the decoder accepts: RSV is 0, and the command's own word has these fields. -/
theorem decodeFields_ok {rsv : BitVec 23} {op : BitVec 4} {k : BitVec 5} {i : Instr} (h : decodeFields rsv op k = .ok i) :
    rsv = 0#23 ∧ i.wellFormed = true ∧ encode i = 0#23 ++ k ++ op := by
  by_cases hr : rsv = 0#23
  · subst hr
    have key : ∀ (op : BitVec 4) (k : BitVec 5),
        (match decodeFields 0#23 op k with
          | .ok i => i.wellFormed && encode i == 0#23 ++ k ++ op
          | .error _ => true) = true := by decide
    have hk := key op k
    rw [h, Bool.and_eq_true] at hk
    exact ⟨rfl, hk.1, eq_of_beq hk.2⟩
  · rw [decodeFields_rsv hr] at h; cases h

end Sys2Proof
end

