-- ==== Sys2Proof/Laws/State.lean ====
section
/-! SUPPORT. What each named update of the state does to each field: true by rfl, and the simp set of every later proof. -/

namespace Sys2Proof.Machine

variable (s : State)

@[simp] theorem State.raise_a (cause : Cause) : (s.raise cause).a = s.a := rfl
@[simp] theorem State.raise_b (cause : Cause) : (s.raise cause).b = s.b := rfl
@[simp] theorem State.raise_c (cause : Cause) : (s.raise cause).c = s.c := rfl
@[simp] theorem State.raise_seed (cause : Cause) : (s.raise cause).seed = s.seed := rfl
@[simp] theorem State.raise_len (cause : Cause) : (s.raise cause).len = s.len := rfl
@[simp] theorem State.raise_off (cause : Cause) : (s.raise cause).off = s.off := rfl
@[simp] theorem State.raise_rem (cause : Cause) : (s.raise cause).rem = s.rem := rfl
@[simp] theorem State.raise_result (cause : Cause) : (s.raise cause).result = s.result := rfl
@[simp] theorem State.raise_phase (cause : Cause) : (s.raise cause).phase = s.phase := rfl
@[simp] theorem State.raise_done (cause : Cause) : (s.raise cause).done = s.done := rfl
@[simp] theorem State.raise_err (cause : Cause) : (s.raise cause).err = true := rfl
@[simp] theorem State.raise_ecode (cause : Cause) : (s.raise cause).ecode = if s.err then s.ecode else .of cause := rfl
@[simp] theorem State.raise_dsize (cause : Cause) : (s.raise cause).dsize = s.dsize := rfl
@[simp] theorem State.raise_mem (cause : Cause) : (s.raise cause).mem = s.mem := rfl
@[simp] theorem State.raise_inbox (cause : Cause) : (s.raise cause).inbox = s.inbox := rfl
@[simp] theorem State.raise_readBack (cause : Cause) : (s.raise cause).readBack = s.readBack := rfl

@[simp] theorem State.setDone_a : s.setDone.a = s.a := rfl
@[simp] theorem State.setDone_b : s.setDone.b = s.b := rfl
@[simp] theorem State.setDone_c : s.setDone.c = s.c := rfl
@[simp] theorem State.setDone_seed : s.setDone.seed = s.seed := rfl
@[simp] theorem State.setDone_len : s.setDone.len = s.len := rfl
@[simp] theorem State.setDone_off : s.setDone.off = s.off := rfl
@[simp] theorem State.setDone_rem : s.setDone.rem = s.rem := rfl
@[simp] theorem State.setDone_result : s.setDone.result = s.result := rfl
@[simp] theorem State.setDone_phase : s.setDone.phase = s.phase := rfl
@[simp] theorem State.setDone_done : s.setDone.done = true := rfl
@[simp] theorem State.setDone_err : s.setDone.err = s.err := rfl
@[simp] theorem State.setDone_ecode : s.setDone.ecode = s.ecode := rfl
@[simp] theorem State.setDone_dsize : s.setDone.dsize = s.dsize := rfl
@[simp] theorem State.setDone_mem : s.setDone.mem = s.mem := rfl
@[simp] theorem State.setDone_inbox : s.setDone.inbox = s.inbox := rfl
@[simp] theorem State.setDone_readBack : s.setDone.readBack = s.readBack := rfl

@[simp] theorem State.acknowledge_a (w : Word) : (s.acknowledge w).a = s.a := rfl
@[simp] theorem State.acknowledge_b (w : Word) : (s.acknowledge w).b = s.b := rfl
@[simp] theorem State.acknowledge_c (w : Word) : (s.acknowledge w).c = s.c := rfl
@[simp] theorem State.acknowledge_seed (w : Word) : (s.acknowledge w).seed = s.seed := rfl
@[simp] theorem State.acknowledge_len (w : Word) : (s.acknowledge w).len = s.len := rfl
@[simp] theorem State.acknowledge_off (w : Word) : (s.acknowledge w).off = s.off := rfl
@[simp] theorem State.acknowledge_rem (w : Word) : (s.acknowledge w).rem = s.rem := rfl
@[simp] theorem State.acknowledge_result (w : Word) : (s.acknowledge w).result = s.result := rfl
@[simp] theorem State.acknowledge_phase (w : Word) : (s.acknowledge w).phase = s.phase := rfl
@[simp] theorem State.acknowledge_done (w : Word) : (s.acknowledge w).done = if w.getLsbD 1 then false else s.done := rfl
@[simp] theorem State.acknowledge_err (w : Word) : (s.acknowledge w).err = if w.getLsbD 2 then false else s.err := rfl
@[simp] theorem State.acknowledge_ecode (w : Word) : (s.acknowledge w).ecode = if w.getLsbD 2 then .none else s.ecode := rfl
@[simp] theorem State.acknowledge_dsize (w : Word) : (s.acknowledge w).dsize = s.dsize := rfl
@[simp] theorem State.acknowledge_mem (w : Word) : (s.acknowledge w).mem = s.mem := rfl
@[simp] theorem State.acknowledge_inbox (w : Word) : (s.acknowledge w).inbox = s.inbox := rfl
@[simp] theorem State.acknowledge_readBack (w : Word) : (s.acknowledge w).readBack = s.readBack := rfl

@[simp] theorem State.setWords_a (v : Word × Word × Word) : (s.setWords v).a = v.1 := rfl
@[simp] theorem State.setWords_b (v : Word × Word × Word) : (s.setWords v).b = v.2.1 := rfl
@[simp] theorem State.setWords_c (v : Word × Word × Word) : (s.setWords v).c = v.2.2 := rfl
@[simp] theorem State.setWords_seed (v : Word × Word × Word) : (s.setWords v).seed = s.seed := rfl
@[simp] theorem State.setWords_len (v : Word × Word × Word) : (s.setWords v).len = s.len := rfl
@[simp] theorem State.setWords_off (v : Word × Word × Word) : (s.setWords v).off = s.off := rfl
@[simp] theorem State.setWords_rem (v : Word × Word × Word) : (s.setWords v).rem = s.rem := rfl
@[simp] theorem State.setWords_result (v : Word × Word × Word) : (s.setWords v).result = s.result := rfl
@[simp] theorem State.setWords_phase (v : Word × Word × Word) : (s.setWords v).phase = s.phase := rfl
@[simp] theorem State.setWords_done (v : Word × Word × Word) : (s.setWords v).done = s.done := rfl
@[simp] theorem State.setWords_err (v : Word × Word × Word) : (s.setWords v).err = s.err := rfl
@[simp] theorem State.setWords_ecode (v : Word × Word × Word) : (s.setWords v).ecode = s.ecode := rfl
@[simp] theorem State.setWords_dsize (v : Word × Word × Word) : (s.setWords v).dsize = s.dsize := rfl
@[simp] theorem State.setWords_mem (v : Word × Word × Word) : (s.setWords v).mem = s.mem := rfl
@[simp] theorem State.setWords_inbox (v : Word × Word × Word) : (s.setWords v).inbox = s.inbox := rfl
@[simp] theorem State.setWords_readBack (v : Word × Word × Word) : (s.setWords v).readBack = s.readBack := rfl

@[simp] theorem State.hwReset_a : s.hwReset.a = 0#32 := rfl
@[simp] theorem State.hwReset_b : s.hwReset.b = 0#32 := rfl
@[simp] theorem State.hwReset_c : s.hwReset.c = 0#32 := rfl
@[simp] theorem State.hwReset_seed : s.hwReset.seed = 0#32 := rfl
@[simp] theorem State.hwReset_len : s.hwReset.len = s.dsize := rfl
@[simp] theorem State.hwReset_off : s.hwReset.off = 0#32 := rfl
@[simp] theorem State.hwReset_rem : s.hwReset.rem = 0#32 := rfl
@[simp] theorem State.hwReset_result : s.hwReset.result = 0#32 := rfl
@[simp] theorem State.hwReset_phase : s.hwReset.phase = .idle := rfl
@[simp] theorem State.hwReset_done : s.hwReset.done = false := rfl
@[simp] theorem State.hwReset_err : s.hwReset.err = false := rfl
@[simp] theorem State.hwReset_ecode : s.hwReset.ecode = .none := rfl
@[simp] theorem State.hwReset_dsize : s.hwReset.dsize = s.dsize := rfl
@[simp] theorem State.hwReset_mem : s.hwReset.mem = s.mem := rfl
@[simp] theorem State.hwReset_inbox : s.hwReset.inbox = s.inbox := rfl
@[simp] theorem State.hwReset_readBack : s.hwReset.readBack = s.readBack := rfl

@[simp] theorem State.respond_a (w : Word) : (s.respond w).a = s.a := rfl
@[simp] theorem State.respond_b (w : Word) : (s.respond w).b = s.b := rfl
@[simp] theorem State.respond_c (w : Word) : (s.respond w).c = s.c := rfl
@[simp] theorem State.respond_seed (w : Word) : (s.respond w).seed = s.seed := rfl
@[simp] theorem State.respond_len (w : Word) : (s.respond w).len = s.len := rfl
@[simp] theorem State.respond_off (w : Word) : (s.respond w).off = s.off := rfl
@[simp] theorem State.respond_rem (w : Word) : (s.respond w).rem = s.rem := rfl
@[simp] theorem State.respond_result (w : Word) : (s.respond w).result = s.result := rfl
@[simp] theorem State.respond_phase (w : Word) : (s.respond w).phase = s.phase := rfl
@[simp] theorem State.respond_done (w : Word) : (s.respond w).done = s.done := rfl
@[simp] theorem State.respond_err (w : Word) : (s.respond w).err = s.err := rfl
@[simp] theorem State.respond_ecode (w : Word) : (s.respond w).ecode = s.ecode := rfl
@[simp] theorem State.respond_dsize (w : Word) : (s.respond w).dsize = s.dsize := rfl
@[simp] theorem State.respond_mem (w : Word) : (s.respond w).mem = s.mem := rfl
@[simp] theorem State.respond_inbox (w : Word) : (s.respond w).inbox = s.inbox := rfl
@[simp] theorem State.respond_readBack (w : Word) : (s.respond w).readBack = some w := rfl

@[simp] theorem opInit_a : (opInit s).a = 0xDEADBEEF#32 + s.len + s.seed := rfl
@[simp] theorem opInit_b : (opInit s).b = 0xDEADBEEF#32 + s.len + s.seed := rfl
@[simp] theorem opInit_c : (opInit s).c = 0xDEADBEEF#32 + s.len + s.seed := rfl
@[simp] theorem opInit_seed : (opInit s).seed = s.seed := rfl
@[simp] theorem opInit_len : (opInit s).len = s.len := rfl
@[simp] theorem opInit_off : (opInit s).off = 0#32 := rfl
@[simp] theorem opInit_rem : (opInit s).rem = s.len := rfl
@[simp] theorem opInit_result : (opInit s).result = s.result := rfl
@[simp] theorem opInit_phase : (opInit s).phase = s.phase := rfl
@[simp] theorem opInit_done : (opInit s).done = s.done := rfl
@[simp] theorem opInit_err : (opInit s).err = s.err := rfl
@[simp] theorem opInit_ecode : (opInit s).ecode = s.ecode := rfl
@[simp] theorem opInit_dsize : (opInit s).dsize = s.dsize := rfl
@[simp] theorem opInit_mem : (opInit s).mem = s.mem := rfl
@[simp] theorem opInit_inbox : (opInit s).inbox = s.inbox := rfl
@[simp] theorem opInit_readBack : (opInit s).readBack = s.readBack := rfl

@[simp] theorem opFinal_a : (opFinal s).a = (finalize3 s.a s.b s.c).1 := rfl
@[simp] theorem opFinal_b : (opFinal s).b = (finalize3 s.a s.b s.c).2.1 := rfl
@[simp] theorem opFinal_c : (opFinal s).c = (finalize3 s.a s.b s.c).2.2 := rfl
@[simp] theorem opFinal_seed : (opFinal s).seed = s.seed := rfl
@[simp] theorem opFinal_len : (opFinal s).len = s.len := rfl
@[simp] theorem opFinal_off : (opFinal s).off = s.off := rfl
@[simp] theorem opFinal_rem : (opFinal s).rem = s.rem := rfl
@[simp] theorem opFinal_result : (opFinal s).result = finalize s.a s.b s.c := rfl
@[simp] theorem opFinal_phase : (opFinal s).phase = s.phase := rfl
@[simp] theorem opFinal_done : (opFinal s).done = s.done := rfl
@[simp] theorem opFinal_err : (opFinal s).err = s.err := rfl
@[simp] theorem opFinal_ecode : (opFinal s).ecode = s.ecode := rfl
@[simp] theorem opFinal_dsize : (opFinal s).dsize = s.dsize := rfl
@[simp] theorem opFinal_mem : (opFinal s).mem = s.mem := rfl
@[simp] theorem opFinal_inbox : (opFinal s).inbox = s.inbox := rfl
@[simp] theorem opFinal_readBack : (opFinal s).readBack = s.readBack := rfl

@[simp] theorem State.choosePhase_a : s.choosePhase.a = s.a := rfl
@[simp] theorem State.choosePhase_b : s.choosePhase.b = s.b := rfl
@[simp] theorem State.choosePhase_c : s.choosePhase.c = s.c := rfl
@[simp] theorem State.choosePhase_seed : s.choosePhase.seed = s.seed := rfl
@[simp] theorem State.choosePhase_len : s.choosePhase.len = s.len := rfl
@[simp] theorem State.choosePhase_off : s.choosePhase.off = s.off := rfl
@[simp] theorem State.choosePhase_rem : s.choosePhase.rem = s.rem := rfl
@[simp] theorem State.choosePhase_result : s.choosePhase.result = s.result := rfl
@[simp] theorem State.choosePhase_phase : s.choosePhase.phase = selectNext s.rem := rfl
@[simp] theorem State.choosePhase_done : s.choosePhase.done = s.done := rfl
@[simp] theorem State.choosePhase_err : s.choosePhase.err = s.err := rfl
@[simp] theorem State.choosePhase_ecode : s.choosePhase.ecode = s.ecode := rfl
@[simp] theorem State.choosePhase_dsize : s.choosePhase.dsize = s.dsize := rfl
@[simp] theorem State.choosePhase_mem : s.choosePhase.mem = s.mem := rfl
@[simp] theorem State.choosePhase_inbox : s.choosePhase.inbox = s.inbox := rfl
@[simp] theorem State.choosePhase_readBack : s.choosePhase.readBack = s.readBack := rfl

@[simp] theorem State.endRun_a : s.endRun.a = s.a := rfl
@[simp] theorem State.endRun_b : s.endRun.b = s.b := rfl
@[simp] theorem State.endRun_c : s.endRun.c = s.c := rfl
@[simp] theorem State.endRun_seed : s.endRun.seed = s.seed := rfl
@[simp] theorem State.endRun_len : s.endRun.len = s.len := rfl
@[simp] theorem State.endRun_off : s.endRun.off = s.off := rfl
@[simp] theorem State.endRun_rem : s.endRun.rem = s.rem := rfl
@[simp] theorem State.endRun_result : s.endRun.result = s.result := rfl
@[simp] theorem State.endRun_phase : s.endRun.phase = .idle := rfl
@[simp] theorem State.endRun_done : s.endRun.done = true := rfl
@[simp] theorem State.endRun_err : s.endRun.err = s.err := rfl
@[simp] theorem State.endRun_ecode : s.endRun.ecode = s.ecode := rfl
@[simp] theorem State.endRun_dsize : s.endRun.dsize = s.dsize := rfl
@[simp] theorem State.endRun_mem : s.endRun.mem = s.mem := rfl
@[simp] theorem State.endRun_inbox : s.endRun.inbox = s.inbox := rfl
@[simp] theorem State.endRun_readBack : s.endRun.readBack = s.readBack := rfl

@[simp] theorem State.resetFor_a (d : Word) (m : Memory) : (State.resetFor d m).a = 0#32 := rfl
@[simp] theorem State.resetFor_b (d : Word) (m : Memory) : (State.resetFor d m).b = 0#32 := rfl
@[simp] theorem State.resetFor_c (d : Word) (m : Memory) : (State.resetFor d m).c = 0#32 := rfl
@[simp] theorem State.resetFor_seed (d : Word) (m : Memory) : (State.resetFor d m).seed = 0#32 := rfl
@[simp] theorem State.resetFor_len (d : Word) (m : Memory) : (State.resetFor d m).len = d := rfl
@[simp] theorem State.resetFor_off (d : Word) (m : Memory) : (State.resetFor d m).off = 0#32 := rfl
@[simp] theorem State.resetFor_rem (d : Word) (m : Memory) : (State.resetFor d m).rem = 0#32 := rfl
@[simp] theorem State.resetFor_result (d : Word) (m : Memory) : (State.resetFor d m).result = 0#32 := rfl
@[simp] theorem State.resetFor_phase (d : Word) (m : Memory) : (State.resetFor d m).phase = .idle := rfl
@[simp] theorem State.resetFor_done (d : Word) (m : Memory) : (State.resetFor d m).done = false := rfl
@[simp] theorem State.resetFor_err (d : Word) (m : Memory) : (State.resetFor d m).err = false := rfl
@[simp] theorem State.resetFor_ecode (d : Word) (m : Memory) : (State.resetFor d m).ecode = .none := rfl
@[simp] theorem State.resetFor_dsize (d : Word) (m : Memory) : (State.resetFor d m).dsize = d := rfl
@[simp] theorem State.resetFor_mem (d : Word) (m : Memory) : (State.resetFor d m).mem = m := rfl
@[simp] theorem State.resetFor_inbox (d : Word) (m : Memory) : (State.resetFor d m).inbox = [] := rfl
@[simp] theorem State.resetFor_readBack (d : Word) (m : Memory) : (State.resetFor d m).readBack = none := rfl

@[simp] theorem State.powerUpFor_a (p : Preboot) (d : Word) (m : Memory) : (State.powerUpFor p d m).a = p.a := rfl
@[simp] theorem State.powerUpFor_b (p : Preboot) (d : Word) (m : Memory) : (State.powerUpFor p d m).b = p.b := rfl
@[simp] theorem State.powerUpFor_c (p : Preboot) (d : Word) (m : Memory) : (State.powerUpFor p d m).c = p.c := rfl
@[simp] theorem State.powerUpFor_seed (p : Preboot) (d : Word) (m : Memory) : (State.powerUpFor p d m).seed = p.seed := rfl
@[simp] theorem State.powerUpFor_len (p : Preboot) (d : Word) (m : Memory) : (State.powerUpFor p d m).len = p.len := rfl
@[simp] theorem State.powerUpFor_off (p : Preboot) (d : Word) (m : Memory) : (State.powerUpFor p d m).off = p.off := rfl
@[simp] theorem State.powerUpFor_rem (p : Preboot) (d : Word) (m : Memory) : (State.powerUpFor p d m).rem = p.rem := rfl
@[simp] theorem State.powerUpFor_result (p : Preboot) (d : Word) (m : Memory) : (State.powerUpFor p d m).result = p.result := rfl
@[simp] theorem State.powerUpFor_phase (p : Preboot) (d : Word) (m : Memory) : (State.powerUpFor p d m).phase = .ofCode p.phase := rfl
@[simp] theorem State.powerUpFor_done (p : Preboot) (d : Word) (m : Memory) : (State.powerUpFor p d m).done = p.done := rfl
@[simp] theorem State.powerUpFor_err (p : Preboot) (d : Word) (m : Memory) : (State.powerUpFor p d m).err = p.err := rfl
@[simp] theorem State.powerUpFor_ecode (p : Preboot) (d : Word) (m : Memory) : (State.powerUpFor p d m).ecode = .ofCode p.ecode := rfl
@[simp] theorem State.powerUpFor_dsize (p : Preboot) (d : Word) (m : Memory) : (State.powerUpFor p d m).dsize = d := rfl
@[simp] theorem State.powerUpFor_mem (p : Preboot) (d : Word) (m : Memory) : (State.powerUpFor p d m).mem = m := rfl
@[simp] theorem State.powerUpFor_inbox (p : Preboot) (d : Word) (m : Memory) : (State.powerUpFor p d m).inbox = [] := rfl
@[simp] theorem State.powerUpFor_readBack (p : Preboot) (d : Word) (m : Memory) : (State.powerUpFor p d m).readBack = none := rfl

@[simp] theorem Phase.ofCode_code (phase : Phase) : Phase.ofCode phase.code = phase := by cases phase <;> rfl
@[simp] theorem ECode.ofCode_code (ecode : ECode) : ECode.ofCode ecode.code = ecode := by
  cases ecode with
  | of cause => cases cause <;> rfl
  | _ => rfl

end Sys2Proof.Machine
end

