-- ==== Sys2Proof/Laws/Ops.lean ====
section
/-! SUPPORT. What each shared operation over the state can do: the data space and its canonical form, BUSY, a command. -/

namespace Sys2Proof.Machine

/-! ### The data space -/

theorem Memory.read_eq_zero {m : Memory} {addr : Nat} (h : ∀ x ∈ m, x.1 ≠ addr) : m.read addr = 0#8 := by
  induction m with
  | nil => rfl
  | cons x rest ih =>
    obtain ⟨k, b⟩ := x
    simp only [Memory.read, if_neg (h (k, b) (List.mem_cons_self ..))]
    exact ih fun y hy => h y (List.mem_cons_of_mem _ hy)

theorem Memory.wf_tail {x : Host.Cell} {m : Memory} (h : Memory.wf (x :: m)) : m.wf :=
  ⟨(List.pairwise_cons.mp h.1).2, fun y hy => h.2 y (List.mem_cons_of_mem _ hy)⟩

/-- What a write lists: the written cell or cells listed before. -/
theorem Memory.mem_write {m : Memory} {addr : Nat} {v : Byte} {x : Host.Cell} (h : x ∈ m.write addr v) :
    x = (addr, v) ∧ v ≠ 0#8 ∨ x ∈ m := by
  induction m with
  | nil =>
    by_cases hv : v = 0#8 <;> simp_all [Memory.write]
  | cons y rest ih =>
    obtain ⟨k, b⟩ := y
    simp only [Memory.write] at h
    split at h
    · split at h <;> simp_all
    · split at h
      · split at h <;> simp_all
        exact h.imp_right .inr
      · rcases List.mem_cons.mp h with rfl | h
        · exact .inr (List.mem_cons_self ..)
        · exact (ih h).imp_right (List.mem_cons_of_mem _)

/-- A write keeps the canonical form. -/
theorem Memory.write_wf {m : Memory} (h : m.wf) (addr : Nat) (v : Byte) : (m.write addr v).wf := by
  induction m with
  | nil => by_cases hv : v = 0#8 <;> simp [Memory.write, Memory.wf, hv]
  | cons x rest ih =>
    obtain ⟨k, b⟩ := x
    have hrest := Memory.wf_tail h
    have hk := (List.pairwise_cons.mp h.1).1
    have hb := h.2 (k, b) (List.mem_cons_self ..)
    simp only [Memory.write]
    split
    · rename_i hlt
      split
      · exact h
      · rename_i hv
        refine ⟨List.pairwise_cons.mpr ⟨?_, h.1⟩, ?_⟩
        · intro y hy
          rcases List.mem_cons.mp hy with rfl | hy
          · exact hlt
          · exact Nat.lt_trans hlt (hk y hy)
        · intro y hy
          rcases List.mem_cons.mp hy with rfl | hy
          · exact hv
          · exact h.2 y hy
    · split
      · rename_i heq
        split
        · exact hrest
        · rename_i hv
          refine ⟨List.pairwise_cons.mpr ⟨fun y hy => heq ▸ hk y hy, hrest.1⟩, ?_⟩
          intro y hy
          rcases List.mem_cons.mp hy with rfl | hy
          · exact hv
          · exact hrest.2 y hy
      · rename_i hge hne
        have hw := ih hrest
        refine ⟨List.pairwise_cons.mpr ⟨?_, hw.1⟩, ?_⟩
        · intro y hy
          rcases Memory.mem_write hy with ⟨rfl, -⟩ | hy
          · exact Nat.lt_of_le_of_ne (Nat.le_of_not_lt hge) (Ne.symm hne)
          · exact hk y hy
        · intro y hy
          rcases List.mem_cons.mp hy with rfl | hy
          · exact hb
          · exact hw.2 y hy

/-- A write leaves every other place alone. -/
theorem Memory.read_write_other (m : Memory) {addr other : Nat} (v : Byte) (h : other ≠ addr) :
    (m.write addr v).read other = m.read other := by
  induction m with
  | nil => by_cases hv : v = 0#8 <;> simp [Memory.write, Memory.read, hv, h.symm]
  | cons x rest ih =>
    obtain ⟨k, b⟩ := x
    simp only [Memory.write]
    split
    · split
      · rfl
      · simp [Memory.read, h.symm]
    · split
      · rename_i heq
        subst heq
        split <;> simp [Memory.read, h.symm]
      · simp [Memory.read, ih]

/-- A read after a write to the same place gives the value written. -/
theorem Memory.read_write_same {m : Memory} (h : m.wf) (addr : Nat) (v : Byte) : (m.write addr v).read addr = v := by
  induction m with
  | nil => by_cases hv : v = 0#8 <;> simp [Memory.write, Memory.read, hv]
  | cons x rest ih =>
    obtain ⟨k, b⟩ := x
    have hk := (List.pairwise_cons.mp h.1).1
    simp only [Memory.write]
    split
    · rename_i hlt
      split
      · rename_i hv
        subst hv
        apply Memory.read_eq_zero
        intro y hy
        rcases List.mem_cons.mp hy with rfl | hy
        · exact Nat.ne_of_gt hlt
        · exact Nat.ne_of_gt (Nat.lt_trans hlt (hk y hy))
      · simp [Memory.read]
    · split
      · rename_i heq
        split
        · rename_i hv
          subst hv heq
          exact Memory.read_eq_zero fun y hy => Nat.ne_of_gt (hk y hy)
        · simp [Memory.read]
      · rename_i hne
        simp [Memory.read, Ne.symm hne, ih (Memory.wf_tail h)]

theorem State.reset_mem_wf : State.reset.mem.wf := ⟨.nil, fun _ h => nomatch h⟩

/-! ### BUSY and commands -/

theorem State.busy_eq_false {s : State} : s.busy = false ↔ s.phase = .idle := by simp [State.busy]

theorem State.busy_eq_true {s : State} : s.busy = true ↔ s.phase ≠ .idle := by simp [State.busy]

theorem State.whenIdle_busy {s : State} {act : State → State} (h : s.busy = true) : s.whenIdle act = s.raise .busy := by
  simp [State.whenIdle, h]

theorem State.whenIdle_idle {s : State} {act : State → State} (h : s.busy = false) : s.whenIdle act = act s := by
  simp [State.whenIdle, h]

theorem State.command_busy {s : State} {body : State → Except Cause State} (h : s.busy = true) :
    s.command body = s.raise .busy := State.whenIdle_busy h

theorem State.command_ok {s t : State} {body : State → Except Cause State} (h : s.busy = false) (hb : body s = .ok t) :
    s.command body = t := by
  simp [State.command, State.whenIdle, h, hb]

theorem State.command_error {s : State} {cause : Cause} {body : State → Except Cause State} (h : s.busy = false)
    (hb : body s = .error cause) : s.command body = s.raise cause := by
  simp [State.command, State.whenIdle, h, hb]

/-- All a command can do: raise BUSY, raise an error of its own, or have its effect while BUSY = 0. -/
theorem State.command_cases (s : State) (body : State → Except Cause State) :
    (s.busy = true ∧ s.command body = s.raise .busy) ∨
    (∃ cause, s.busy = false ∧ body s = .error cause ∧ s.command body = s.raise cause) ∨
    (∃ t, s.busy = false ∧ body s = .ok t ∧ s.command body = t) := by
  cases hb : s.busy with
  | true => exact .inl ⟨rfl, State.command_busy hb⟩
  | false =>
    cases h : body s with
    | error cause => exact .inr (.inl ⟨cause, rfl, rfl, State.command_error hb h⟩)
    | ok t => exact .inr (.inr ⟨t, rfl, rfl, State.command_ok hb h⟩)

/-! ### The register map -/

/-- The sixteen accesses that reach a register, and the register of each (rules R31 and R44). -/
theorem Reg.ofAccess_eq_some {offset width : Nat} {r : Reg} (h : Reg.ofAccess offset width = some r) :
    width = 4 ∧ (offset, r) ∈ [(0x00, Reg.ctrl), (0x04, .status), (0x08, .seed), (0x0C, .len), (0x10, .result),
      (0x14, .a), (0x18, .b), (0x1C, .c), (0x20, .off), (0x24, .rem), (0x28, .dsize), (0x2C, .reserved),
      (0x30, .reserved), (0x34, .reserved), (0x38, .reserved), (0x3C, .reserved)] := by
  simp only [Reg.ofAccess] at h
  split at h
  · rename_i hw
    refine ⟨hw, ?_⟩
    obtain ⟨l₁, l₂, hl, -⟩ := List.lookup_eq_some_iff.mp h
    rw [hl]
    simp
  · cases h

theorem Reg.ofAccess_width {offset width : Nat} (h : width ≠ 4) : Reg.ofAccess offset width = none := if_neg h

end Sys2Proof.Machine
end

