-- ==== Sys2Proof/Laws/Operands.lean ====
section
/-! SUPPORT. What a read of the data space answers, the word it builds, and the driver's operations on the state, each said
once. -/

namespace Sys2Proof.Machine

theorem State.memRead_ok {s : State} {addr : Nat} (h : addr < s.dsize.toNat) : s.memRead addr = .ok (s.mem.read addr) :=
  if_pos h

theorem State.memRead_error {s : State} {addr : Nat} (h : s.dsize.toNat ≤ addr) : s.memRead addr = .error .oob :=
  if_neg (Nat.not_lt.mpr h)

/-- MemRead depends on DSIZE and the data space alone. -/
theorem State.memRead_congr {s t : State} (hd : t.dsize = s.dsize) (hm : t.mem = s.mem) (addr : Nat) :
    t.memRead addr = s.memRead addr := by simp only [State.memRead, hd, hm]

theorem State.loadWord32_ok {s : State} {addr : Nat} (h : addr + 3 < s.dsize.toNat) :
    s.loadWord32 addr = .ok (refWord s.mem.read addr) := by
  simp only [State.loadWord32, State.memRead_ok (show addr < s.dsize.toNat by omega),
    State.memRead_ok (show addr + 1 < s.dsize.toNat by omega), State.memRead_ok (show addr + 2 < s.dsize.toNat by omega),
    State.memRead_ok h]
  rfl

/-- The only error of a word read is MemRead's. -/
theorem State.loadWord32_cases (s : State) (addr : Nat) :
    (addr + 3 < s.dsize.toNat ∧ s.loadWord32 addr = .ok (refWord s.mem.read addr)) ∨
    (s.dsize.toNat ≤ addr + 3 ∧ s.loadWord32 addr = .error .oob) := by
  by_cases h : addr + 3 < s.dsize.toNat
  · exact .inl ⟨h, State.loadWord32_ok h⟩
  · refine .inr ⟨by omega, ?_⟩
    simp only [State.loadWord32, State.memRead, if_neg h]
    split <;> try rfl
    split <;> try rfl
    split <;> rfl

/-- Op_Block: it reads past the end of the data space, or it answers the state of rule R113. -/
theorem opBlock_cases (s : State) :
    (s.dsize.toNat < s.off.toNat + 12 ∧ opBlock s = .error .oob) ∨
    (s.off.toNat + 12 ≤ s.dsize.toNat ∧
      opBlock s = .ok { s.setWords (mix (s.a + refWord s.mem.read s.off.toNat)
          (s.b + refWord s.mem.read (s.off.toNat + 4)) (s.c + refWord s.mem.read (s.off.toNat + 8))) with
        off := s.off + 12#32, rem := s.rem - 12#32 }) := by
  by_cases h : s.off.toNat + 12 ≤ s.dsize.toNat
  · refine .inr ⟨h, ?_⟩
    simp only [opBlock, State.loadWord32_ok (show s.off.toNat + 3 < s.dsize.toNat by omega),
      State.loadWord32_ok (show s.off.toNat + 4 + 3 < s.dsize.toNat by omega),
      State.loadWord32_ok (show s.off.toNat + 8 + 3 < s.dsize.toNat by omega)]
    rfl
  · refine .inl ⟨by omega, ?_⟩
    simp only [opBlock]
    rcases s.loadWord32_cases s.off.toNat with ⟨-, h0⟩ | ⟨-, h0⟩
    · rcases s.loadWord32_cases (s.off.toNat + 4) with ⟨-, h1⟩ | ⟨-, h1⟩
      · rcases s.loadWord32_cases (s.off.toNat + 8) with ⟨h2, -⟩ | ⟨-, h2⟩
        · omega
        · rw [h0, h1, h2]; rfl
      · rw [h0, h1]; rfl
    · rw [h0]; rfl

/-- A zero byte adds nothing to any lane. -/
theorem addLane_zero (v : Word × Word × Word) (j : Nat) : addLane v j 0#8 = v := by
  simp only [addLane]
  split <;> simp

/-- Bytes 0 to 3 of the tail go to A (rule R115). -/
theorem addLane_a {j : Nat} (h : j < 4) (a b c : Word) (x : Byte) :
    addLane (a, b, c) j x = (a + x.setWidth 32 <<< (8 * (j % 4)), b, c) := by
  simp only [addLane, show j / 4 = 0 by omega]

/-- Bytes 4 to 7 of the tail go to B (rule R115). -/
theorem addLane_b {j : Nat} (h : j / 4 = 1) (a b c : Word) (x : Byte) :
    addLane (a, b, c) j x = (a, b + x.setWidth 32 <<< (8 * (j % 4)), c) := by
  simp only [addLane, h]

/-- Bytes 8 to 11 of the tail go to C (rule R115). -/
theorem addLane_c {j : Nat} (h : j / 4 = 2) (a b c : Word) (x : Byte) :
    addLane (a, b, c) j x = (a, b, c + x.setWidth 32 <<< (8 * (j % 4))) := by
  simp only [addLane, h]

/-- One guard, with its byte read as 0 where the guard fails (rule R115). -/
theorem tailAdd_ok {s : State} {guard : Nat} (hg : 1 ≤ guard) (h : s.off.toNat + s.rem.toNat ≤ s.dsize.toNat)
    (v : Word × Word × Word) :
    tailAdd s v guard = .ok (addLane v (guard - 1) (padded s.mem.read s.off.toNat s.rem.toNat (guard - 1))) := by
  by_cases hr : guard ≤ s.rem.toNat
  · simp only [tailAdd, if_pos hr, State.memRead_ok (show s.off.toNat + (guard - 1) < s.dsize.toNat by omega), padded,
      if_pos (show guard - 1 < s.rem.toNat by omega)]
    rfl
  · simp only [tailAdd, if_neg hr, padded, if_neg (show ¬guard - 1 < s.rem.toNat by omega), addLane_zero]

/-- Any guards, in any order, inside the data space. -/
theorem foldlM_tailAdd_ok {s : State} (h : s.off.toNat + s.rem.toNat ≤ s.dsize.toNat) {guards : List Nat}
    (hg : ∀ g ∈ guards, 1 ≤ g) (v : Word × Word × Word) :
    guards.foldlM (tailAdd s) v = .ok
      (guards.foldl (fun v g => addLane v (g - 1) (padded s.mem.read s.off.toNat s.rem.toNat (g - 1))) v) := by
  induction guards generalizing v with
  | nil => rfl
  | cons g rest ih =>
    rw [List.foldlM_cons, tailAdd_ok (hg g (List.mem_cons_self ..)) h]
    exact ih (fun x hx => hg x (List.mem_cons_of_mem _ hx)) _

/-- A little-endian word is the sum of its shifted bytes: they occupy disjoint bits (rule R43). -/
theorem le32_eq_add (b0 b1 b2 b3 : Byte) :
    le32 b0 b1 b2 b3 =
      b0.setWidth 32 + (b1.setWidth 32 <<< 8) + (b2.setWidth 32 <<< 16) + (b3.setWidth 32 <<< 24) := by
  have h1 : b0.setWidth 32 &&& (b1.setWidth 32 <<< 8) = 0#32 := by
    ext i hi
    simp only [BitVec.getElem_and, BitVec.getElem_setWidth, BitVec.getElem_shiftLeft, BitVec.getElem_zero]
    by_cases h : i < 8
    · simp [h]
    · simp [BitVec.getLsbD_of_ge b0 i (by omega)]
  have h2 : (b0.setWidth 32 ||| (b1.setWidth 32 <<< 8)) &&& (b2.setWidth 32 <<< 16) = 0#32 := by
    ext i hi
    simp only [BitVec.getElem_and, BitVec.getElem_or, BitVec.getElem_setWidth, BitVec.getElem_shiftLeft,
      BitVec.getElem_zero]
    by_cases h : i < 16
    · simp [h]
    · simp [BitVec.getLsbD_of_ge b0 i (by omega), BitVec.getLsbD_of_ge b1 (i - 8) (by omega)]
  have h3 : (b0.setWidth 32 ||| (b1.setWidth 32 <<< 8) ||| (b2.setWidth 32 <<< 16)) &&& (b3.setWidth 32 <<< 24) = 0#32 := by
    ext i hi
    simp only [BitVec.getElem_and, BitVec.getElem_or, BitVec.getElem_setWidth, BitVec.getElem_shiftLeft,
      BitVec.getElem_zero]
    by_cases h : i < 24
    · simp [h]
    · simp [BitVec.getLsbD_of_ge b0 i (by omega), BitVec.getLsbD_of_ge b1 (i - 8) (by omega),
        BitVec.getLsbD_of_ge b2 (i - 16) (by omega)]
  rw [le32, BitVec.add_eq_or_of_and_eq_zero _ _ h1, BitVec.add_eq_or_of_and_eq_zero _ _ h2,
    BitVec.add_eq_or_of_and_eq_zero _ _ h3]

/-- Op_Tail inside the data space: the padded little-endian words are added (rules R114 and R115). -/
theorem opTail_ok {s : State} (h : s.off.toNat + s.rem.toNat ≤ s.dsize.toNat) :
    opTail s = .ok { s with
      a := s.a + refWord (padded s.mem.read s.off.toNat s.rem.toNat) 0
      b := s.b + refWord (padded s.mem.read s.off.toNat s.rem.toNat) 4
      c := s.c + refWord (padded s.mem.read s.off.toNat s.rem.toNat) 8
      off := s.off + s.rem
      rem := 0#32 } := by
  have hf : tailFold s tailGuards = .ok
      (s.a + refWord (padded s.mem.read s.off.toNat s.rem.toNat) 0,
        s.b + refWord (padded s.mem.read s.off.toNat s.rem.toNat) 4,
        s.c + refWord (padded s.mem.read s.off.toNat s.rem.toNat) 8) := by
    rw [tailFold, foldlM_tailAdd_ok h (by decide)]
    generalize padded s.mem.read s.off.toNat s.rem.toNat = p
    simp only [tailGuards, List.foldl_cons, List.foldl_nil, Nat.reduceSub]
    rw [addLane_c (j := 11) rfl, addLane_c (j := 10) rfl, addLane_c (j := 9) rfl, addLane_c (j := 8) rfl,
      addLane_b (j := 7) rfl, addLane_b (j := 6) rfl, addLane_b (j := 5) rfl, addLane_b (j := 4) rfl,
      addLane_a (j := 3) (by decide), addLane_a (j := 2) (by decide), addLane_a (j := 1) (by decide),
      addLane_a (j := 0) (by decide)]
    simp only [Nat.reduceMod, Nat.reduceMul, BitVec.shiftLeft_zero, refWord, le32_eq_add, Nat.reduceAdd,
      Except.ok.injEq, Prod.mk.injEq]
    have sum : ∀ w x0 x1 x2 x3 : Word, w + x3 + x2 + x1 + x0 = w + (x0 + x1 + x2 + x3) := by intros; ac_rfl
    exact ⟨sum .., sum .., sum ..⟩
  simp only [opTail, hf]
  rfl

/-- The only error of the tail fold is MemRead's. -/
theorem tailAdd_error {s : State} {v : Word × Word × Word} {guard : Nat} {cause : Cause}
    (h : tailAdd s v guard = .error cause) :
    cause = .oob ∧ guard ≤ s.rem.toNat ∧ s.dsize.toNat ≤ s.off.toNat + (guard - 1) := by
  simp only [tailAdd] at h
  split at h
  · rename_i hg
    by_cases hr : s.off.toNat + (guard - 1) < s.dsize.toNat
    · rw [State.memRead_ok hr] at h; cases h
    · rw [State.memRead_error (by omega)] at h
      cases h
      exact ⟨rfl, hg, by omega⟩
  · cases h

/-- A CORE step with a guard: it faults, or it answers what its operation gives. -/
theorem guardedStep_cases (pre : Bool) (op : Except Cause State) (andThen : State → State) :
    (guardedStep pre op andThen = .fault .failedGuard ∧ (pre = false ∨ ∃ cause, op = .error cause)) ∨
    (∃ t, pre = true ∧ op = .ok t ∧ guardedStep pre op andThen = .next (andThen t)) := by
  cases pre with
  | false => exact .inl ⟨rfl, .inl rfl⟩
  | true =>
    cases op with
    | error cause => exact .inl ⟨rfl, .inr ⟨cause, rfl⟩⟩
    | ok t => exact .inr ⟨t, rfl, rfl, rfl⟩

end Sys2Proof.Machine
end

