-- ==== Sys2Proof/Laws/Exec.lean ====
section
/-! SUPPORT. What a command can do, said once (`exec_cases`), what a step does with each event, and what an event during a
run leaves (`perform_busy`). -/

namespace Sys2Proof.Machine

theorem State.raise_eq_raised (s : State) (cause : Cause) : s.raise cause = raised s cause := rfl

/-- A command answers an error's state, or what its body answers while BUSY = 0. -/
theorem State.command_next {s t : State} {body : State → Except Cause State}
    (h : (.next (s.command body) : Host.Outcome State Fault Refusal) = .next t) :
    (∃ cause, t = raised s cause) ∨ (s.busy = false ∧ body s = .ok t) := by
  cases h
  rcases s.command_cases body with ⟨-, hc⟩ | ⟨cause, -, -, hc⟩ | ⟨t, hb, hx, hc⟩
  · exact .inl ⟨_, hc⟩
  · exact .inl ⟨cause, hc⟩
  · exact .inr ⟨hb, hc ▸ hx⟩

/-- What a command does when it raises no error, with the checks it has passed. -/
def CommandEffect (i : Instr) (s t : State) : Prop :=
  match i with
  | .nop => t = s
  | .hash => s.len ≤ s.dsize ∧ t = { s with done := false, phase := .init }
  | .init => s.len ≤ s.dsize ∧ t = (opInit s).setDone
  | .block => 12#32 < s.rem ∧ ∃ u, opBlock s = .ok u ∧ t = u.setDone
  | .tail => 1#32 ≤ s.rem ∧ s.rem ≤ 12#32 ∧ ∃ u, opTail s = .ok u ∧ t = u.setDone
  | .final => t = (opFinal s).setDone
  | .mix => t = (s.setWords (mix s.a s.b s.c)).setDone
  | .rot k => k ≠ 0#5 ∧ t = State.setDone { s with result := rotate s.a k.toNat }

theorem Except.bind_return_eq_ok {op : Except Cause State} {f : State → State} {t : State}
    (h : (do return f (← op)) = Except.ok t) : ∃ u, op = .ok u ∧ t = f u := by
  cases op with
  | error cause => cases h
  | ok u => cases h; exact ⟨u, rfl, rfl⟩

/-- Everything a command can do: raise an error and change nothing else, or, while BUSY = 0, have its effect. -/
theorem exec_cases {i : Instr} {s t : State} (h : exec i s = .next t) :
    (∃ cause, t = raised s cause) ∨ (s.busy = false ∧ CommandEffect i s t) := by
  cases i with
  | nop => exact (State.command_next h).imp_right fun ⟨hb, hx⟩ => ⟨hb, by cases hx; rfl⟩
  | hash =>
    refine (State.command_next h).imp_right fun ⟨hb, hx⟩ => ⟨hb, ?_⟩
    split at hx
    · cases hx
    · rename_i hl; cases hx; exact ⟨BitVec.not_lt.mp hl, rfl⟩
  | init =>
    refine (State.command_next h).imp_right fun ⟨hb, hx⟩ => ⟨hb, ?_⟩
    split at hx
    · cases hx
    · rename_i hl; cases hx; exact ⟨BitVec.not_lt.mp hl, rfl⟩
  | block =>
    refine (State.command_next h).imp_right fun ⟨hb, hx⟩ => ⟨hb, ?_⟩
    split at hx
    · cases hx
    · rename_i hr; exact ⟨BitVec.not_le.mp hr, Except.bind_return_eq_ok hx⟩
  | tail =>
    refine (State.command_next h).imp_right fun ⟨hb, hx⟩ => ⟨hb, ?_⟩
    split at hx
    · cases hx
    · rename_i hr
      have h0 : s.rem ≠ 0#32 := fun h => hr (.inl h)
      refine ⟨?_, BitVec.not_lt.mp fun h => hr (.inr h), Except.bind_return_eq_ok hx⟩
      rw [BitVec.le_def]
      have : s.rem.toNat ≠ 0 := fun h => h0 (BitVec.eq_of_toNat_eq h)
      exact Nat.pos_of_ne_zero this
  | final => exact (State.command_next h).imp_right fun ⟨hb, hx⟩ => ⟨hb, by cases hx; rfl⟩
  | mix => exact (State.command_next h).imp_right fun ⟨hb, hx⟩ => ⟨hb, by cases hx; rfl⟩
  | rot k =>
    refine (State.command_next h).imp_right fun ⟨hb, hx⟩ => ⟨hb, ?_⟩
    split at hx
    · cases hx
    · rename_i hk; cases hx; exact ⟨hk, rfl⟩

/-- While BUSY = 1 every command raises BUSY and does nothing else (rules R64 and R147). -/
theorem exec_busy {s : State} (i : Instr) (h : s.busy = true) : exec i s = .next (raised s .busy) := by
  cases i <;> exact congrArg Host.Outcome.next (State.command_busy h)

/-- Op_Tail keeps everything but the state words, OFF and REM. -/
theorem opTail_form {s t : State} (h : opTail s = .ok t) :
    ∃ v, t = { s.setWords v with off := s.off + s.rem, rem := 0#32 } := by
  simp only [opTail] at h
  cases hf : tailFold s tailGuards with
  | error cause => rw [hf] at h; cases h
  | ok v => rw [hf] at h; cases h; exact ⟨v, rfl⟩

/-- Op_Block keeps everything but the state words, OFF and REM. -/
theorem opBlock_form {s t : State} (h : opBlock s = .ok t) :
    ∃ v, t = { s.setWords v with off := s.off + 12#32, rem := s.rem - 12#32 } := by
  rcases opBlock_cases s with ⟨-, hx⟩ | ⟨-, hx⟩
  · rw [hx] at h; cases h
  · rw [hx] at h; cases h; exact ⟨_, rfl⟩

/-- What a CORE step does to the state, phase by phase, when it answers one. -/
def CoreEffect (s t : State) : Prop :=
  match s.phase with
  | .idle => t = s
  | .init => t = (opInit s).choosePhase
  | .bulk => 12#32 < s.rem ∧ ∃ u, opBlock s = .ok u ∧ t = u.choosePhase
  | .tail => 1#32 ≤ s.rem ∧ s.rem ≤ 12#32 ∧ ∃ u, opTail s = .ok u ∧ t = { u with phase := .final }
  | .final => t = (opFinal s).endRun
  | .empty => t = State.endRun { s with result := s.c }
  | .reserved6 => False
  | .reserved7 => False

/-- Everything a CORE step can do when it answers a state (rules R122 to R127). -/
theorem coreStep_cases {s t : State} (h : coreStep s = .next t) : CoreEffect s t := by
  unfold coreStep at h
  unfold CoreEffect
  split at h
  · cases h; simp_all
  · cases h; simp_all
  · rcases guardedStep_cases (decide (12#32 < s.rem)) (opBlock s) State.choosePhase with ⟨hx, -⟩ | ⟨u, hp, ho, hx⟩
    · rw [hx] at h; cases h
    · rw [hx] at h; cases h
      simp_all
  · rcases guardedStep_cases (decide (1#32 ≤ s.rem ∧ s.rem ≤ 12#32)) (opTail s) (fun t => { t with phase := .final })
      with ⟨hx, -⟩ | ⟨u, hp, ho, hx⟩
    · rw [hx] at h; cases h
    · rw [hx] at h; cases h
      simp_all
  · cases h; simp_all
  · cases h; simp_all
  · cases h
  · cases h

/-! ### One step -/

theorem step_of_nil {s : State} (h : s.inbox = []) : step s = coreStep s := by
  simp [step, advance, h]

theorem step_of_cons {s : State} {e : Event} {rest : List Event} (h : s.inbox = e :: rest) :
    step s = perform e (after s rest) := by
  simp [step, advance, h, after]

/-- A CTRL write raises an error and changes nothing else, or is the decoded command (rule R64). -/
theorem ctrlWrite_cases {w : Word} {s t : State} (h : ctrlWrite w s = .next t) :
    (∃ cause, t = raised s cause) ∨ ∃ i, decode w = .ok i ∧ s.busy = false ∧ CommandEffect i s t := by
  unfold ctrlWrite at h
  split at h
  · cases h; exact .inl ⟨_, rfl⟩
  · split at h
    · rename_i i hi
      exact (exec_cases h).imp_right fun ⟨hb, he⟩ => ⟨i, hi, hb, he⟩
    · cases h; exact .inl ⟨_, rfl⟩

/-- What a run needs is as it was: its registers, and every byte of the data space. -/
structure RunKept (s t : State) : Prop where
  a : t.a = s.a
  b : t.b = s.b
  c : t.c = s.c
  seed : t.seed = s.seed
  len : t.len = s.len
  off : t.off = s.off
  rem : t.rem = s.rem
  result : t.result = s.result
  phase : t.phase = s.phase
  dsize : t.dsize = s.dsize
  read : t.mem.read = s.mem.read

theorem RunKept.refl (s : State) : RunKept s s := ⟨rfl, rfl, rfl, rfl, rfl, rfl, rfl, rfl, rfl, rfl, rfl⟩

theorem RunKept.raised (s : State) (cause : Cause) : RunKept s (raised s cause) :=
  ⟨rfl, rfl, rfl, rfl, rfl, rfl, rfl, rfl, rfl, rfl, rfl⟩

/-- While BUSY = 1 no register write changes what the run needs (rules R128, R129 and R147). -/
theorem State.writeReg_busy {s : State} (h : s.busy = true) (r : Reg) (w : Word) : RunKept s (s.writeReg r w) := by
  cases r <;> simp only [State.writeReg, State.whenIdle_busy h] <;> exact ⟨rfl, rfl, rfl, rfl, rfl, rfl, rfl, rfl, rfl, rfl, rfl⟩

/-- Nothing but the CORE's turn and a reset changes what a run needs: HOST accesses, poll branches and tests, refused
commands and stores of the platform leave it (rules R39, R147 and R166). -/
theorem perform_busy {s t : State} {e : Event} (hw : s.mem.wf) (hb : s.busy = true) (hr : e ≠ .reset) (hc : e ≠ .core)
    (h : perform e s = .next t) : RunKept s t := by
  cases e with
  | write offset width w =>
    simp only [perform, hostWrite] at h
    split at h
    · simp only [ctrlWrite, hb, if_true] at h
      cases h; exact RunKept.raised s _
    · cases h; exact State.writeReg_busy hb _ _
    · cases h
  | read offset width =>
    simp only [perform, hostRead] at h
    split at h
    · cases h; exact ⟨rfl, rfl, rfl, rfl, rfl, rfl, rfl, rfl, rfl, rfl, rfl⟩
    · cases h
  | bnz offset bit =>
    simp only [perform, hostBranch] at h
    split at h
    · split at h <;> cases h <;> exact ⟨rfl, rfl, rfl, rfl, rfl, rfl, rfl, rfl, rfl, rfl, rfl⟩
    · cases h
  | remTest => cases h; exact ⟨rfl, rfl, rfl, rfl, rfl, rfl, rfl, rfl, rfl, rfl, rfl⟩
  | reset => exact absurd rfl hr
  | storeData addr v =>
    simp only [perform, storeData] at h
    split at h
    · cases h
    · split at h
      · cases h
      · rename_i hne
        have hv : s.mem.read addr = v := Classical.not_not.mp fun hv => hne ⟨hb, hv⟩
        cases h
        refine ⟨rfl, rfl, rfl, rfl, rfl, rfl, rfl, rfl, rfl, rfl, funext fun other => ?_⟩
        by_cases ho : other = addr
        · rw [ho, Memory.read_write_same hw, hv]
        · exact Memory.read_write_other _ _ ho
  | core => exact absurd rfl hc

end Sys2Proof.Machine
end

