-- ==== Sys2Proof/Laws/PerInstr.lean ====
section
/-! SUPPORT. What holds of every command as syntax: its word has RSV = 0, an OP below 0x8, and K ≠ 0 exactly for ROT (rules
R61, R63 and R67). -/

namespace Sys2Proof.Laws.EncodeFields

/-- The fields of a legal command's word. -/
def Statement (i : Instr) : Prop :=
  i.wellFormed = true →
    rsvField (encode i) = 0#23 ∧ opField (encode i) < 0x8#4 ∧ (kField (encode i) ≠ 0#5 ↔ opField (encode i) = 0x7#4)

theorem nop : Statement .nop := fun _ => by decide
theorem hash : Statement .hash := fun _ => by decide
theorem init : Statement .init := fun _ => by decide
theorem block : Statement .block := fun _ => by decide
theorem tail : Statement .tail := fun _ => by decide
theorem final : Statement .final := fun _ => by decide
theorem mix : Statement .mix := fun _ => by decide
theorem rot (k : BitVec 5) : Statement (.rot k) := by
  unfold Statement
  revert k
  decide

end Sys2Proof.Laws.EncodeFields
end

