-- ==== Sys2Proof/Tests/Slice0.lean ====
section
/-! SUPPORT. The model's own tests, each on one step and with its expected value from 95_test_vectors.md or a rule's
example, and one witness for the hypotheses of each statement of Certificates/Slice0/Obligations.lean. -/

namespace Sys2Proof.Tests

open Sys2Proof.Machine

/-! ## Helpers -/

/-- What `f` reads from the next state, nothing where the step stops. -/
def sees {α : Type} (o : Host.Outcome State Fault Refusal) (f : State → α) : Option α :=
  match o with
  | .next t => some (f t)
  | .fault _ => none
  | .refused _ => none

/-- The state words. -/
def words (s : State) : Word × Word × Word := (s.a, s.b, s.c)

/-- A platform with these bytes from index 0, right after reset. -/
def platform (bytes : List Byte) : State :=
  State.resetFor (BitVec.ofNat 32 bytes.length) ((List.range bytes.length).zip bytes)

/-- "abc". -/
def abc : State := platform [0x61#8, 0x62#8, 0x63#8]

/-- "Hello, World!". -/
def hello : State :=
  platform [0x48#8, 0x65#8, 0x6C#8, 0x6C#8, 0x6F#8, 0x2C#8, 0x20#8, 0x57#8, 0x6F#8, 0x72#8, 0x6C#8, 0x64#8, 0x21#8]

/-- A state with these three words in A, B and C. -/
def withWords (s : State) (a b c : Word) : State := { s with a := a, b := b, c := c }

/-- `hello` after INIT (95_test_vectors.md, trace of H-hw). -/
def helloInit : State := { withWords hello 0xDEADBEFC#32 0xDEADBEFC#32 0xDEADBEFC#32 with rem := 13#32 }

/-- `hello` after its bulk step. -/
def helloTail : State :=
  { withWords hello 0x8A9957BB#32 0x296D3DEE#32 0x3C05E637#32 with off := 12#32, rem := 1#32 }

/-- `abc` after INIT. -/
def abcInit : State := { withWords abc 0xDEADBEF2#32 0xDEADBEF2#32 0xDEADBEF2#32 with rem := 3#32 }

/-- A run over `hello` in PHASE BULK (95_test_vectors.md, program P3). -/
def helloBulk : State := { helloInit with phase := .bulk }

/-! ## Decoding: words that are refused, and ROT's end points (rules R63 to R67) -/

theorem test_decode_rot_least : decode 0b00000000000000000000000000010111#32 = .ok (.rot 1#5) := by decide
theorem test_decode_rot_greatest : decode 0b00000000000000000000000111110111#32 = .ok (.rot 31#5) := by decide
theorem test_decode_rot_zero_refused : decode 0x00000007#32 = .error .rotZero := by decide
theorem test_decode_rsv_refused : decode 0x00000207#32 = .error .rsvSet := by decide
theorem test_decode_op_refused : decode 0x0000000F#32 = .error .opReserved := by decide
theorem test_decode_k_refused : decode 0x00000016#32 = .error .kMisused := by decide
theorem test_encode_rot_16 : encode (.rot 16#5) = 0x00000107#32 := by decide
theorem test_table_word : decodeTableWord 32 0x107 = some (.rot 16#5) := by decide

/-- WellFormed's one check refuses ROT with K = 0. -/
theorem test_ill_formed_rot : Instr.wellFormed (.rot 0#5) = false := by decide

/-! ## The datapath (95_test_vectors.md section 3) -/

theorem test_rotate_top_bit : rotate 0x80000000#32 1 = 0x00000001#32 := by decide
theorem test_rotate_25 : rotate 0xDEADBEEF#32 25 = 0xDFBD5B7D#32 := by decide
theorem test_mix_distinct :
    mix 0x12345678#32 0x9ABCDEF0#32 0x0F1E2D3C#32 = (0x71F3B385#32, 0xA7DA1C43#32, 0xA7C6E953#32) := by decide
theorem test_mix_inverse :
    mixInverse (0x71F3B385#32, 0xA7DA1C43#32, 0xA7C6E953#32) = (0x12345678#32, 0x9ABCDEF0#32, 0x0F1E2D3C#32) := by decide
theorem test_finalize :
    finalize3 0x108A17FF#32 0xC0BFB8EE#32 0x8C37CF7C#32 = (0x1999D069#32, 0x57E0DF4A#32, 0x775CDE33#32) := by decide

/-- The general-knowledge vector G1: "Four score and seven years ago", seed 0. -/
theorem test_hashRef_four_score :
    hashRef (Memory.read ((List.range 30).zip [0x46#8, 0x6F#8, 0x75#8, 0x72#8, 0x20#8, 0x73#8, 0x63#8, 0x6F#8, 0x72#8, 0x65#8,
      0x20#8, 0x61#8, 0x6E#8, 0x64#8, 0x20#8, 0x73#8, 0x65#8, 0x76#8, 0x65#8, 0x6E#8, 0x20#8, 0x79#8, 0x65#8, 0x61#8,
      0x72#8, 0x73#8, 0x20#8, 0x61#8, 0x67#8, 0x6F#8])) 0#32 30#32 = 0x17770551#32 := by decide

/-- H-hw: "Hello, World!", seed 0. -/
theorem test_hashRef_hello : hashRef hello.mem.read 0#32 13#32 = 0xC2C9FE61#32 := by decide

/-! ## The commands, one step each -/

/-- Program P6: NOP changes nothing. -/
theorem test_nop : sees (exec .nop { abc with done := true }) id = some { abc with done := true } := by decide

/-- Program P1, step 3: acceptance shows STATUS = 0x00000101. -/
theorem test_hash_accepted : sees (exec .hash { abc with done := true }) State.statusWord = some 0x00000101#32 := by decide

/-- Program P5, step 2: LEN = 4 with DSIZE = 3 raises OOB, STATUS = 0x00000024. -/
theorem test_hash_oob : sees (exec .hash { abc with len := 4#32 }) State.statusWord = some 0x00000024#32 := by decide

/-- INIT table: SEED = 0xFFFFFFFF and LEN = 0, the sum wraps. -/
theorem test_init_wraps :
    sees (exec .init { abc with seed := 0xFFFFFFFF#32, len := 0#32 }) words
      = some (0xDEADBEEE#32, 0xDEADBEEE#32, 0xDEADBEEE#32) := by decide

theorem test_init_abc : sees (exec .init abc) id = some { abcInit with done := true } := by decide

/-- BLOCK table, first row. -/
theorem test_block_hello : sees (exec .block helloInit) id = some { helloTail with done := true } := by decide

/-- REM = 12 is not above 12: STATUS = 0x00000034. -/
theorem test_block_seq : sees (exec .block { helloInit with rem := 12#32 }) State.statusWord = some 0x00000034#32 := by decide

/-- Program P2, step 4. -/
theorem test_tail_abc :
    sees (exec .tail abcInit) (fun t => (words t, t.off, t.rem))
      = some ((0xDF112153#32, 0xDEADBEF2#32, 0xDEADBEF2#32), 3#32, 0#32) := by decide

/-- The carry case: A = 0xFFFFFFFF with tail byte 0xFF. -/
theorem test_tail_carry :
    sees (exec .tail { withWords (platform [0xFF#8]) 0xFFFFFFFF#32 0xFFFFFFFF#32 0xFFFFFFFF#32 with rem := 1#32 }) words
      = some (0x000000FE#32, 0xFFFFFFFF#32, 0xFFFFFFFF#32) := by decide

/-- Program P2, step 5. -/
theorem test_final_abc :
    sees (exec .final (withWords abc 0xDF112153#32 0xDEADBEF2#32 0xDEADBEF2#32)) (fun t => (words t, t.result))
      = some ((0x9E0D04DC#32, 0x3C03BE9E#32, 0x0E397631#32), 0x0E397631#32) := by decide

/-- MIX table: (0, 0, 1). -/
theorem test_mix_unit :
    sees (exec .mix (withWords abc 0#32 0#32 1#32)) (fun t => (words t, t.done, t.result))
      = some ((0xEAE4D1C9#32, 0x2DCD1961#32, 0x9397E6B6#32), true, 0#32) := by decide

/-- Program P6, step 6. -/
theorem test_rot_16 :
    sees (exec (.rot 16#5) (withWords abc 0x108A17FF#32 0#32 0#32)) (fun t => (t.result, t.a, t.done))
      = some (0x17FF108A#32, 0x108A17FF#32, true) := by decide

/-! ## HOST accesses, CORE steps, reset, the platform -/

/-- Program P3, step 3: WR SEED during PHASE BULK gives STATUS = 0x00000245 and SEED is not written. -/
theorem test_busy_write :
    sees (step { helloBulk with inbox := [.write 0x08 4 5#32] }) (fun t => (t.statusWord, t.seed))
      = some (0x00000245#32, 0#32) := by decide

/-- Sticky first code: after SEQ, an illegal word leaves STATUS = 0x00000034. -/
theorem test_sticky_code :
    sees (step { abc with err := true, ecode := .of .seq, inbox := [.write 0x00 4 0x00000008#32] }) State.statusWord
      = some 0x00000034#32 := by decide

/-- STATUS = 0x00000036, WR STATUS, 0x00000004 keeps DONE. -/
theorem test_status_clear :
    sees (step { abc with done := true, err := true, ecode := .of .seq, inbox := [.write 0x04 4 0x00000004#32] })
      State.statusWord = some 0x00000002#32 := by decide

/-- Program P3, step 5: RD STATUS in PHASE TAIL with a BUSY error pending. -/
theorem test_read_status :
    sees (step { helloTail with phase := .tail, err := true, ecode := .of .busy, inbox := [.read 0x04 4] }) State.readBack
      = some (some 0x00000345#32) := by decide

theorem test_byte_access_refused : (match step { abc with inbox := [.read 0x08 1] } with
    | .refused .undefinedAccess => true
    | _ => false) = true := by decide

/-- Program P3, step 4: the BULK step. -/
theorem test_core_bulk :
    sees (step helloBulk) id = some { helloTail with phase := .tail } := by decide

/-- Program P1: the EMPTY step leaves STATUS = 0x00000002 and RESULT = 0xDEADBEF0. -/
theorem test_core_empty :
    sees (step { withWords (platform []) 0xDEADBEF0#32 0xDEADBEF0#32 0xDEADBEF0#32 with seed := 1#32, phase := .empty })
      (fun t => (t.statusWord, t.result)) = some (0x00000002#32, 0xDEADBEF0#32) := by decide

/-- Reset during a run: STATUS = 0 and LEN = DSIZE. -/
theorem test_reset_in_run :
    sees (step { helloBulk with len := 5#32, inbox := [.reset] }) (fun t => (t.statusWord, t.len, t.a))
      = some (0x00000000#32, 13#32, 0#32) := by decide

/-- STEPHASH with REM = 1 goes to TAIL (program P7, step 6). -/
theorem test_rem_test :
    sees (step { helloTail with inbox := [.remTest] }) (fun t => t.inbox.head?)
      = some (some (.write 0x00 4 0x00000004#32)) := by decide

/-- STEPHASH with REM = 13 goes round its loop: BLOCK, a turn of the CORE, the test again (rule R72, log entry 17). -/
theorem test_rem_test_loop :
    sees (step { helloInit with inbox := [.remTest] }) (fun t => (t.inbox, t.readBack))
      = some ([.write 0x00 4 0x00000003#32, .core, .remTest], some 13#32) := by decide

/-- Before the first reset any code may stand in ECODE, 7 here (rule R163), and a new error replaces it if ERR = 0. -/
theorem test_preboot_ecode :
    State.statusWord (State.powerUpFor { (default : Preboot) with ecode := 7#3 } 0#32 []) = 0x00000070#32 := by decide

theorem test_store_byte :
    sees (step { abc with inbox := [.storeData 1 0x00#8] }) (fun t => t.mem) = some [(0, 0x61#8), (2, 0x63#8)] := by decide

/-- From reset with nothing placed the core stays idle (rule R161). -/
theorem test_reset_idles : step State.reset = .next State.reset := rfl

/-- A word placed by `withFetchWord` is run as the first command after reset. -/
theorem test_first_command : step (State.reset.withFetchWord 32 0x107) = exec (.rot 16#5) State.reset := rfl

/-! ## Witnesses: for each statement with hypotheses, a state and operands that meet them -/

/-- A state that meets the invariant in the middle of a run, with a last block to come. -/
theorem witness_inv_bulk : Inv helloBulk :=
  ⟨by decide, by decide, (by show (12#32 : Word) < helloBulk.rem; decide), by decide, by decide, ⟨by decide, by decide⟩, by decide⟩

theorem witness_inv_idle : Inv hello :=
  ⟨by decide, by decide, trivial, by decide, by decide, ⟨by decide, by decide⟩, by decide⟩

/-- StepRunsTheWrittenCommand, both clauses. -/
theorem witness_written_command :
    decode 0x00000003#32 = .ok .block ∧
    { helloInit with inbox := [Event.write 0x00 4 0x00000003#32] }.inbox = .write 0x00 4 0x00000003#32 :: [] ∧
    decodeTableWord 32 3 = some .block := by decide

/-- DecodeOfEncode and EncodeOfDecode, at ROT's end points. -/
theorem witness_well_formed : Instr.wellFormed (.rot 1#5) = true ∧ Instr.wellFormed (.rot 31#5) = true ∧
    decode 0x00000017#32 = .ok (.rot 1#5) ∧ decode 0x000001F7#32 = .ok (.rot 31#5) := by decide

/-- LegalWordsAreThirtyEight, last clause: the least word that is not legal. -/
theorem witness_illegal_word :
    { abc with inbox := [Event.write 0x00 4 0x00000007#32] }.busy = false ∧ 0x00000007#32 ∉ legalWords := by decide

/-- CtrlWriteDispatch and ErrorsArePrecise: a write and the state it leads to. -/
theorem witness_ctrl_write :
    ({ abc with inbox := [Event.write 0x00 4 0x00000008#32] }.inbox = .write 0x00 4 0x00000008#32 :: [] ∧ (0x00 : Nat) ≠ 0x04) ∧
    step { abc with inbox := [.write 0x00 4 0x00000008#32] } = .next (raised abc .illegal) :=
  ⟨by decide, rfl⟩

/-- NopRule, FinalRule, MixRule, RotRule: idle and busy states, ROT's end points. -/
theorem witness_idle_and_busy : abc.busy = false ∧ helloBulk.busy = true ∧ (1#5 : BitVec 5) ≠ 0#5 ∧ (31#5 : BitVec 5) ≠ 0#5 := by
  decide

/-- HashAcceptance and InitRule: LEN = DSIZE, and LEN one above it. -/
theorem witness_length_bounds : abc.len.toNat ≤ abc.dsize.toNat ∧
    { abc with len := 4#32 }.busy = false ∧ { abc with len := 4#32 }.dsize.toNat < { abc with len := 4#32 }.len.toNat := by decide

/-- BlockRule: REM = 13 is performed, REM = 12 is not. -/
theorem witness_block : helloInit.busy = false ∧ 12 < helloInit.rem.toNat ∧
    helloInit.off.toNat + helloInit.rem.toNat ≤ helloInit.dsize.toNat ∧
    { helloInit with rem := 12#32 }.busy = false ∧ { helloInit with rem := 12#32 }.rem.toNat ≤ 12 := by decide

/-- TailRule: REM = 1 and REM = 12 are performed, REM = 0 and REM = 13 are not. -/
theorem witness_tail :
    (helloTail.busy = false ∧ 1 ≤ helloTail.rem.toNat ∧ helloTail.rem.toNat ≤ 12 ∧
      helloTail.off.toNat + helloTail.rem.toNat ≤ helloTail.dsize.toNat) ∧
    ({ helloInit with rem := 12#32 }.busy = false ∧ 1 ≤ { helloInit with rem := 12#32 }.rem.toNat ∧
      { helloInit with rem := 12#32 }.rem.toNat ≤ 12 ∧
      { helloInit with rem := 12#32 }.off.toNat + { helloInit with rem := 12#32 }.rem.toNat ≤ hello.dsize.toNat) ∧
    (hello.busy = false ∧ hello.rem.toNat = 0) ∧ (helloInit.busy = false ∧ 12 < helloInit.rem.toNat) := by decide

/-- ReadsPastTheEndRaiseOob: OFF one too far for BLOCK, and for TAIL. -/
theorem witness_past_the_end :
    ({ helloInit with off := 2#32 }.busy = false ∧ 12 < { helloInit with off := 2#32 }.rem.toNat ∧
      { helloInit with off := 2#32 }.dsize.toNat < { helloInit with off := 2#32 }.off.toNat + 12) ∧
    ({ helloTail with off := 13#32 }.busy = false ∧ 1 ≤ { helloTail with off := 13#32 }.rem.toNat ∧
      { helloTail with off := 13#32 }.rem.toNat ≤ 12 ∧
      { helloTail with off := 13#32 }.dsize.toNat
        < { helloTail with off := 13#32 }.off.toNat + { helloTail with off := 13#32 }.rem.toNat) := by decide

/-- CommandFrames, CoreNeverWritesSeedOrLen and PendingErrorDoesNotBlock: a command that answers a next state. -/
theorem witness_exec_next : abc.err = false ∧ exec .nop abc = .next abc := ⟨rfl, rfl⟩

/-- BusyWritesAreDropped and RegisterWrites, BUSY = 1: the first and last offset of each list. -/
theorem witness_busy_write :
    { helloBulk with inbox := [Event.write 0x00 4 0#32] }.busy = true ∧ 0x00 ∈ [0x00, 0x08, 0x0C, 0x14, 0x18, 0x1C] ∧
    0x1C ∈ [0x00, 0x08, 0x0C, 0x14, 0x18, 0x1C] ∧ 0x1C ∈ [0x08, 0x0C, 0x14, 0x18, 0x1C] ∧
    0x10 ∈ [0x10, 0x20, 0x24, 0x28, 0x2C, 0x30, 0x34, 0x38, 0x3C] ∧
    0x3C ∈ [0x10, 0x20, 0x24, 0x28, 0x2C, 0x30, 0x34, 0x38, 0x3C] := by decide

/-- RegisterWrites, the LEN clause: LEN one above DSIZE is taken. -/
theorem witness_len_write :
    { abc with inbox := [Event.write 0x0C 4 4#32] }.busy = false ∧ abc.dsize.toNat < (4#32 : Word).toNat ∧
    sees (step { abc with inbox := [.write 0x0C 4 4#32] }) id = some { abc with len := 4#32 } := by decide

/-- ErrorsArePrecise with ERR already set: SEQ is pending and the write raises ILLEGAL. -/
theorem witness_second_error :
    step { abc with err := true, ecode := .of .seq, inbox := [.write 0x00 4 0x00000008#32] }
      = .next { abc with err := true, ecode := .of .seq } ∧
    sees (step { abc with err := false, ecode := .none, inbox := [.write 0x00 4 0x00000008#32] }) (fun u => (u.err, u.ecode))
      = some (true, .of .illegal) := ⟨rfl, by decide⟩

/-- StatusWrites: a write that clears ERR. -/
theorem witness_err_cleared :
    sees (step { abc with err := true, ecode := .of .seq, inbox := [.write 0x04 4 4#32] }) (fun t => t.err) = some false := by
  decide

/-- HostReads: the first and last offset; and a CORE step outside FINAL and EMPTY. -/
theorem witness_host_read :
    { abc with inbox := [Event.read 0x3C 4] }.inbox = .read 0x3C 4 :: [] ∧
    sees (coreStep helloBulk) (fun t => t.result) = some 0#32 ∧ helloBulk.phase ≠ .final ∧ helloBulk.phase ≠ .empty := by decide

/-- UndefinedAccessesRefused: each way to be undefined at its boundary, and the last defined offset. -/
theorem witness_access : ((1 : Nat) ≠ 4) ∧ (0x3D % 4 ≠ 0) ∧ (64 ≤ 0x40) ∧ (0x3C % 4 = 0 ∧ 0x3C < 64) := by decide

/-- InvariantAtReset: "abc" as a platform. -/
theorem witness_platform : abc.mem.wf ∧ ∀ x ∈ abc.mem, x.1 < abc.dsize.toNat := ⟨⟨by decide, by decide⟩, by decide⟩

/-- InvariantKeptByEveryStep and CoreHasOneStepWhileBusy: a state in a run that steps. -/
theorem witness_inv_step : Inv helloBulk ∧ helloBulk.busy = true ∧ sees (step helloBulk) State.phase = some .tail :=
  ⟨witness_inv_bulk, by decide, by decide⟩

/-- CoreStepsRaiseNoError, the failing guards: REM = 12 in BULK, REM = 0 and 13 in TAIL, and reads past the end. -/
theorem witness_failed_guard :
    (({ helloBulk with rem := 12#32 } : State).phase = .bulk ∧ ({ helloBulk with rem := 12#32 } : State).rem.toNat ≤ 12) ∧
    (({ helloBulk with off := 2#32 } : State).dsize.toNat < ({ helloBulk with off := 2#32 } : State).off.toNat + 12) ∧
    (({ hello with phase := .tail } : State).phase = .tail ∧ ({ hello with phase := .tail } : State).rem.toNat = 0) ∧
    12 < ({ helloInit with phase := .tail } : State).rem.toNat ∧
    ({ helloTail with phase := .tail, off := 13#32 } : State).dsize.toNat
      < ({ helloTail with phase := .tail, off := 13#32 } : State).off.toNat + 1 := by decide

/-- CoreHasOneStepWhileBusy: the impossible phases. -/
theorem witness_reserved_phase : ({ abc with phase := .reserved6 } : State).phase = .reserved6 ∧
    ({ abc with phase := .reserved7 } : State).phase = .reserved7 ∧ abc.phase = .idle := by decide

/-- TurnsOfTheCore, ResetEverything and PollLoopBranch: the events at the head of the inbox. -/
theorem witness_events : abc.inbox = [] ∧ { abc with inbox := [Event.core] }.inbox = .core :: [] ∧
    { abc with inbox := [Event.reset] }.inbox = .reset :: [] ∧
    { abc with inbox := [Event.bnz 0x04 0] }.inbox = .bnz 0x04 0 :: [] := by decide

/-- DataSpaceStable and PlatformStores: a store in a run that would change a byte, and one while idle. -/
theorem witness_store :
    (helloBulk.busy = true ∧ 12 < helloBulk.dsize.toNat ∧ helloBulk.mem.read 12 ≠ 0x22#8 ∧ helloBulk.mem.wf) ∧
    (hello.busy = false ∧ hello.mem.wf ∧ ∀ addr v rest, hello.inbox ≠ .storeData addr v :: rest) :=
  ⟨⟨by decide, by decide, by decide, ⟨by decide, by decide⟩⟩, by decide, ⟨by decide, by decide⟩, by simp [hello, platform]⟩

/-- ResultHasFewWriters: a step that changes RESULT. -/
theorem witness_result_changes :
    sees (step { withWords abc 1#32 0#32 0#32 with inbox := [.write 0x00 4 0x00000017#32] }) (fun t => t.result) = some 2#32 ∧
    abc.result = 0#32 := by decide

/-- NextPhaseSelection: REM = 13, 12, 1 and 0. -/
theorem witness_rem_values : 12 < (13#32 : Word).toNat ∧ (1 ≤ (12#32 : Word).toNat ∧ (12#32 : Word).toNat ≤ 12) ∧
    (1 ≤ (1#32 : Word).toNat ∧ (1#32 : Word).toNat ≤ 12) ∧ (0#32 : Word).toNat = 0 := by decide

/-- CoreStepsByPhase: BULK with REM = 13 and TAIL with REM = 1, inside the data space. -/
theorem witness_core_phases :
    (helloBulk.phase = .bulk ∧ 12 < helloBulk.rem.toNat ∧
      helloBulk.off.toNat + helloBulk.rem.toNat ≤ helloBulk.dsize.toNat) ∧
    (({ helloTail with phase := .tail } : State).phase = .tail ∧ 1 ≤ helloTail.rem.toNat ∧ helloTail.rem.toNat ≤ 12 ∧
      helloTail.off.toNat + helloTail.rem.toNat ≤ helloTail.dsize.toNat) ∧
    ({ abc with phase := .init } : State).phase = .init ∧ ({ abc with phase := .final } : State).phase = .final ∧
    ({ abc with phase := .empty } : State).phase = .empty := by decide

/-- The HASH run statements: a run over `s` is accepted (LEN = 13 here; 12 and 0 below). -/
theorem witness_accepted : Accepted hello { hello with phase := .init } := ⟨rfl, rfl, rfl, rfl⟩

/-- BlockSizeBoundary with LEN = 12. -/
theorem witness_accepted_12 : Accepted { hello with len := 12#32 } { hello with len := 12#32, phase := .init } :=
  ⟨rfl, rfl, rfl, rfl⟩

/-- EmptyInputUnfinalized with LEN = 0. -/
theorem witness_accepted_0 : Accepted { hello with len := 0#32 } { hello with len := 0#32, phase := .init } :=
  ⟨rfl, rfl, rfl, rfl⟩

/-- EmptyInputUnfinalized, the CORE's INIT step with LEN = 0. -/
theorem witness_empty_init :
    sees (coreStep { hello with len := 0#32, phase := .init }) State.phase = some .empty := by decide

/-- LengthPrefixConsistency: "abcdefXYZ" and "abc" with LEN = 3 (95_test_vectors.md, check of S5). -/
theorem witness_prefix :
    Accepted { platform [0x61#8, 0x62#8, 0x63#8, 0x64#8, 0x65#8, 0x66#8, 0x58#8, 0x59#8, 0x5A#8] with len := 3#32 }
      { platform [0x61#8, 0x62#8, 0x63#8, 0x64#8, 0x65#8, 0x66#8, 0x58#8, 0x59#8, 0x5A#8] with len := 3#32, phase := .init } ∧
    Accepted abc { abc with phase := .init } ∧
    ∀ addr, addr < 3 →
      (platform [0x61#8, 0x62#8, 0x63#8, 0x64#8, 0x65#8, 0x66#8, 0x58#8, 0x59#8, 0x5A#8]).mem.read addr = abc.mem.read addr :=
  ⟨⟨rfl, rfl, rfl, rfl⟩, ⟨rfl, rfl, rfl, rfl⟩, by decide⟩

/-- SingleStepsMirrorCoreSteps: CORE steps that answer a next state, in each of the four phases. -/
theorem witness_mirror :
    (hello.phase = .idle ∧ hello.len.toNat ≤ hello.dsize.toNat ∧
      (sees (coreStep { hello with phase := .init }) State.phase) = some .bulk) ∧
    (sees (coreStep { helloInit with phase := .bulk }) State.phase) = some .tail ∧
    (sees (coreStep { helloTail with phase := .tail }) State.phase) = some .final ∧
    (sees (coreStep { helloTail with phase := .final }) State.phase) = some .idle := by decide

/-- RotateBits and RotateLaws: the end points of their ranges. -/
theorem witness_amounts : (1 ≤ 1 ∧ 1 ≤ 31) ∧ (1 ≤ 31 ∧ 31 ≤ 31) ∧ (0 < 32 ∧ 31 < 32) ∧ (1 ≤ 1 ∧ 1 ≤ 30 ∧ 1 + 30 ≤ 31) := by decide

/-- TailGuardOrderIrrelevant: the ascending order. -/
theorem witness_guard_order : [1, 2, 3, 4, 5, 6, 7, 8, 9, 10, 11, 12].Perm tailGuards := by decide

/-- StepHashTest and StepHashGivesHashRef: LEN = DSIZE and idle. -/
theorem witness_step_hash :
    { helloInit with inbox := [Event.remTest] }.inbox = .remTest :: [] ∧
    { hello with inbox := stepHashOps }.busy = false ∧
    { hello with inbox := stepHashOps }.len.toNat ≤ { hello with inbox := stepHashOps }.dsize.toNat := by decide

/-- HashAfterReset: during a run, with the two events to come. -/
theorem witness_hash_after_reset :
    { helloBulk with inbox := [Event.reset, .write 0x00 4 0x00000001#32] }.inbox = [.reset, .write 0x00 4 0x00000001#32] := rfl

/-- RunSurvivesOtherSteps and EveryRunEnds: a HOST write refused in a run, the CORE's turn, and the CORE's last step. -/
theorem witness_run_steps :
    Inv { helloBulk with inbox := [.write 0x08 4 5#32] } ∧
    ¬CoreTurn { helloBulk with inbox := [.write 0x08 4 5#32] } ∧
    sees (step { helloBulk with inbox := [.write 0x08 4 5#32] }) State.busy = some true ∧
    CoreTurn helloBulk ∧ stepsLeft helloBulk = 3 ∧ sees (step helloBulk) stepsLeft = some 2 ∧
    pendingResult helloBulk = 0xC2C9FE61#32 ∧ sees (step helloBulk) pendingResult = some 0xC2C9FE61#32 ∧
    sees (exec .hash hello) (fun t => (t.busy, pendingResult t, stepsLeft t)) = some (true, 0xC2C9FE61#32, 4) :=
  ⟨⟨by decide, by decide, (by show (12#32 : Word) < helloBulk.rem; decide), by decide, by decide, ⟨by decide, by decide⟩,
    by decide⟩, by simp [CoreTurn], by decide, .inl rfl, by decide, by decide, by decide, by decide, by decide⟩

end Sys2Proof.Tests
end

section
/-! Frames: what a command, a CORE step and each event leave unchanged, read off the inversion lemmas `exec_cases` and
`coreStep_cases` of the laws (10_state.md R21 to R28). -/

namespace Sys2Proof.Machine

/-- Only what belongs to a run may differ: the state words, OFF, REM, RESULT, PHASE and DONE. -/
structure OnlyRunFieldsChange (s t : State) : Prop where
  seed : t.seed = s.seed
  len : t.len = s.len
  dsize : t.dsize = s.dsize
  mem : t.mem = s.mem
  inbox : t.inbox = s.inbox
  readBack : t.readBack = s.readBack
  err : t.err = s.err
  ecode : t.ecode = s.ecode

/-- Of what belongs to a run, too, only the state words, OFF and REM may differ. -/
structure OnlyWordsAndInputChange (s t : State) : Prop extends OnlyRunFieldsChange s t where
  result : t.result = s.result
  phase : t.phase = s.phase

theorem opBlock_onlyWordsAndInput {s t : State} (h : opBlock s = .ok t) : OnlyWordsAndInputChange s t := by
  obtain ⟨v, rfl⟩ := opBlock_form h
  exact ⟨⟨rfl, rfl, rfl, rfl, rfl, rfl, rfl, rfl⟩, rfl, rfl⟩

theorem opTail_onlyWordsAndInput {s t : State} (h : opTail s = .ok t) : OnlyWordsAndInputChange s t := by
  obtain ⟨v, rfl⟩ := opTail_form h
  exact ⟨⟨rfl, rfl, rfl, rfl, rfl, rfl, rfl, rfl⟩, rfl, rfl⟩

theorem CommandEffect.onlyRunFields {i : Instr} {s t : State} (h : CommandEffect i s t) : OnlyRunFieldsChange s t := by
  cases i with
  | nop => obtain rfl := h; exact ⟨rfl, rfl, rfl, rfl, rfl, rfl, rfl, rfl⟩
  | hash => obtain ⟨-, rfl⟩ := h; exact ⟨rfl, rfl, rfl, rfl, rfl, rfl, rfl, rfl⟩
  | init => obtain ⟨-, rfl⟩ := h; exact ⟨rfl, rfl, rfl, rfl, rfl, rfl, rfl, rfl⟩
  | block => obtain ⟨-, u, hu, rfl⟩ := h; exact { opBlock_onlyWordsAndInput hu with }
  | tail => obtain ⟨-, -, u, hu, rfl⟩ := h; exact { opTail_onlyWordsAndInput hu with }
  | final => obtain rfl := h; exact ⟨rfl, rfl, rfl, rfl, rfl, rfl, rfl, rfl⟩
  | mix => obtain rfl := h; exact ⟨rfl, rfl, rfl, rfl, rfl, rfl, rfl, rfl⟩
  | rot k => obtain ⟨-, rfl⟩ := h; exact ⟨rfl, rfl, rfl, rfl, rfl, rfl, rfl, rfl⟩

theorem CoreEffect.onlyRunFields {s t : State} (h : CoreEffect s t) : OnlyRunFieldsChange s t := by
  cases hp : s.phase <;> simp only [CoreEffect, hp] at h
  case idle => subst h; exact ⟨rfl, rfl, rfl, rfl, rfl, rfl, rfl, rfl⟩
  case init => subst h; exact ⟨rfl, rfl, rfl, rfl, rfl, rfl, rfl, rfl⟩
  case bulk => obtain ⟨-, u, hu, rfl⟩ := h; exact { opBlock_onlyWordsAndInput hu with }
  case tail => obtain ⟨-, -, u, hu, rfl⟩ := h; exact { opTail_onlyWordsAndInput hu with }
  case final => subst h; exact ⟨rfl, rfl, rfl, rfl, rfl, rfl, rfl, rfl⟩
  case empty => subst h; exact ⟨rfl, rfl, rfl, rfl, rfl, rfl, rfl, rfl⟩

/-- RESULT is written by FINAL and ROT alone (rule R28). -/
theorem CommandEffect.result {i : Instr} {s t : State} (h : CommandEffect i s t) (hfinal : i ≠ .final)
    (hrot : ∀ k, i ≠ .rot k) : t.result = s.result := by
  cases i with
  | nop => obtain rfl := h; rfl
  | hash => obtain ⟨-, rfl⟩ := h; rfl
  | init => obtain ⟨-, rfl⟩ := h; rfl
  | block => obtain ⟨-, u, hu, rfl⟩ := h; exact (opBlock_onlyWordsAndInput hu).result
  | tail => obtain ⟨-, -, u, hu, rfl⟩ := h; exact (opTail_onlyWordsAndInput hu).result
  | final => exact absurd rfl hfinal
  | mix => obtain rfl := h; rfl
  | rot k => exact absurd rfl (hrot k)

theorem CommandEffect.result_writer {i : Instr} {s t : State} (h : CommandEffect i s t) (hne : t.result ≠ s.result) :
    i = .final ∨ ∃ k, i = .rot k := by
  by_contra hn
  obtain ⟨hfinal, hrot⟩ := not_or.mp hn
  exact hne (h.result hfinal (not_exists.mp hrot))

/-- PHASE is written by HASH alone (rule R27). -/
theorem CommandEffect.phase {i : Instr} {s t : State} (h : CommandEffect i s t) (hhash : i ≠ .hash) :
    t.phase = s.phase := by
  cases i with
  | nop => obtain rfl := h; rfl
  | hash => exact absurd rfl hhash
  | init => obtain ⟨-, rfl⟩ := h; rfl
  | block => obtain ⟨-, u, hu, rfl⟩ := h; exact (opBlock_onlyWordsAndInput hu).phase
  | tail => obtain ⟨-, -, u, hu, rfl⟩ := h; exact (opTail_onlyWordsAndInput hu).phase
  | final => obtain rfl := h; rfl
  | mix => obtain rfl := h; rfl
  | rot k => obtain ⟨-, rfl⟩ := h; rfl

/-- OFF and REM are written by INIT, BLOCK and TAIL alone (rules R24 and R25). -/
theorem CommandEffect.input {i : Instr} {s t : State} (h : CommandEffect i s t) (hinit : i ≠ .init)
    (hblock : i ≠ .block) (htail : i ≠ .tail) : t.off = s.off ∧ t.rem = s.rem := by
  cases i with
  | nop => obtain rfl := h; exact ⟨rfl, rfl⟩
  | hash => obtain ⟨-, rfl⟩ := h; exact ⟨rfl, rfl⟩
  | init => exact absurd rfl hinit
  | block => exact absurd rfl hblock
  | tail => exact absurd rfl htail
  | final => obtain rfl := h; exact ⟨rfl, rfl⟩
  | mix => obtain rfl := h; exact ⟨rfl, rfl⟩
  | rot k => obtain ⟨-, rfl⟩ := h; exact ⟨rfl, rfl⟩

/-- NOP, HASH and ROT leave the state words alone (rules R82, R120 and R121). -/
theorem CommandEffect.words {i : Instr} {s t : State} (h : CommandEffect i s t)
    (hi : i = .nop ∨ i = .hash ∨ ∃ k, i = .rot k) : t.a = s.a ∧ t.b = s.b ∧ t.c = s.c := by
  rcases hi with rfl | rfl | ⟨k, rfl⟩
  · obtain rfl := h; exact ⟨rfl, rfl, rfl⟩
  · obtain ⟨-, rfl⟩ := h; exact ⟨rfl, rfl, rfl⟩
  · obtain ⟨-, rfl⟩ := h; exact ⟨rfl, rfl, rfl⟩

/-- The CORE writes RESULT in its FINAL and EMPTY steps alone (rules R125 and R126). -/
theorem CoreEffect.result {s t : State} (h : CoreEffect s t) (hfinal : s.phase ≠ .final) (hempty : s.phase ≠ .empty) :
    t.result = s.result := by
  cases hp : s.phase <;> simp only [CoreEffect, hp] at h
  case idle => subst h; rfl
  case init => subst h; rfl
  case bulk => obtain ⟨-, u, hu, rfl⟩ := h; exact (opBlock_onlyWordsAndInput hu).result
  case tail => obtain ⟨-, -, u, hu, rfl⟩ := h; exact (opTail_onlyWordsAndInput hu).result
  case final => exact absurd hp hfinal
  case empty => exact absurd hp hempty

theorem CoreEffect.result_writer {s t : State} (h : CoreEffect s t) (hne : t.result ≠ s.result) :
    s.phase = .final ∨ s.phase = .empty := by
  by_contra hn
  obtain ⟨hfinal, hempty⟩ := not_or.mp hn
  exact hne (h.result hfinal hempty)

/-- Everything a register write can do: nothing, the acknowledgement, the error BUSY, or, while BUSY = 0, a write to one of
the registers of rule R129. -/
theorem State.writeReg_cases (s : State) (r : Reg) (w : Word) :
    s.writeReg r w = s ∨ s.writeReg r w = s.acknowledge w ∨ s.writeReg r w = s.raise .busy ∨
    (s.busy = false ∧ ∃ seed len a b c,
      s.writeReg r w = { s with seed := seed, len := len, a := a, b := b, c := c }) := by
  cases hb : s.busy with
  | true =>
    cases r with
    | status => exact .inr (.inl rfl)
    | seed | len | a | b | c => exact .inr (.inr (.inl (by rw [State.writeReg, State.whenIdle_busy hb])))
    | ctrl | result | off | rem | dsize | reserved => exact .inl rfl
  | false =>
    cases r with
    | status => exact .inr (.inl rfl)
    | seed => exact .inr (.inr (.inr ⟨rfl, w, s.len, s.a, s.b, s.c, by rw [State.writeReg, State.whenIdle_idle hb]⟩))
    | len => exact .inr (.inr (.inr ⟨rfl, s.seed, w, s.a, s.b, s.c, by rw [State.writeReg, State.whenIdle_idle hb]⟩))
    | a => exact .inr (.inr (.inr ⟨rfl, s.seed, s.len, w, s.b, s.c, by rw [State.writeReg, State.whenIdle_idle hb]⟩))
    | b => exact .inr (.inr (.inr ⟨rfl, s.seed, s.len, s.a, w, s.c, by rw [State.writeReg, State.whenIdle_idle hb]⟩))
    | c => exact .inr (.inr (.inr ⟨rfl, s.seed, s.len, s.a, s.b, w, by rw [State.writeReg, State.whenIdle_idle hb]⟩))
    | ctrl | result | off | rem | dsize | reserved => exact .inl rfl

/-- No register write reaches RESULT (rule R31). -/
theorem State.writeReg_result (s : State) (r : Reg) (w : Word) : (s.writeReg r w).result = s.result := by
  rcases s.writeReg_cases r w with h | h | h | ⟨-, seed, len, a, b, c, h⟩ <;> rw [h] <;> rfl

/-! What each event does when it answers a state, said once. -/

/-- The effect of one event: of a CTRL write, of any other register write, of the HOST's reads, which leave all but the
value read and the events to come, of reset, of a store inside the data space, and of the CORE's turn. -/
def EventEffect (e : Event) (s t : State) : Prop :=
  match e with
  | .write offset width w =>
    (offset = 0x00 ∧ width = 4 ∧
      ((∃ cause, t = raised s cause) ∨ ∃ i, decode w = .ok i ∧ s.busy = false ∧ CommandEffect i s t)) ∨
    ∃ r, Reg.ofAccess offset width = some r ∧ r ≠ .ctrl ∧ t = s.writeReg r w
  | .read _ _ => ∃ v, t = s.respond v
  | .bnz _ _ => ∃ v events, t = { s.respond v with inbox := events }
  | .remTest => ∃ v events, t = { s.respond v with inbox := events }
  | .reset => t = s.hwReset
  | .storeData addr v => addr < s.dsize.toNat ∧ t = { s with mem := s.mem.write addr v }
  | .core => CoreEffect s t

theorem hostWrite_cases {offset width : Nat} {w : Word} {s t : State} (h : hostWrite offset width w s = .next t) :
    EventEffect (.write offset width w) s t := by
  unfold hostWrite at h
  split at h
  · rename_i hr
    obtain ⟨hwidth, hmem⟩ := Reg.ofAccess_eq_some hr
    exact .inl ⟨by simpa using hmem, hwidth, ctrlWrite_cases h⟩
  · rename_i r hctrl hr
    cases h; exact .inr ⟨r, hr, hctrl, rfl⟩
  · cases h

theorem perform_cases {e : Event} {s t : State} (h : perform e s = .next t) : EventEffect e s t := by
  cases e with
  | write offset width w => exact hostWrite_cases h
  | read offset width =>
    simp only [perform, hostRead] at h
    split at h
    · cases h; exact ⟨_, rfl⟩
    · cases h
  | bnz offset bit =>
    simp only [perform, hostBranch] at h
    split at h
    · split at h
      · cases h; exact ⟨_, _, rfl⟩
      · cases h; exact ⟨_, _, rfl⟩
    · cases h
  | remTest => cases h; exact ⟨_, _, rfl⟩
  | reset => cases h; rfl
  | storeData addr v =>
    simp only [perform, storeData] at h
    split at h
    · cases h
    · rename_i haddr
      split at h
      · cases h
      · cases h; exact ⟨Nat.not_le.mp haddr, rfl⟩
  | core => exact coreStep_cases h

/-- Everything a step can do: the CORE's step when no event is left, or else what the next event does. -/
theorem step_cases {s t : State} (h : step s = .next t) :
    (s.inbox = [] ∧ CoreEffect s t) ∨ ∃ e rest, s.inbox = e :: rest ∧ EventEffect e (after s rest) t := by
  cases hi : s.inbox with
  | nil => exact .inl ⟨rfl, coreStep_cases (step_of_nil hi ▸ h)⟩
  | cons e rest => exact .inr ⟨e, rest, rfl, perform_cases (step_of_cons hi ▸ h)⟩

/-- An event after which RESULT differs: reset, a FINAL or ROT command, or the CORE's turn in PHASE FINAL or EMPTY. -/
theorem EventEffect.result_writer {e : Event} {s t : State} (h : EventEffect e s t) (hne : t.result ≠ s.result) :
    e = .reset ∨
    (∃ w i, e = .write 0x00 4 w ∧ decode w = .ok i ∧ s.busy = false ∧ (i = .final ∨ ∃ k, i = .rot k)) ∨
    (e = .core ∧ (s.phase = .final ∨ s.phase = .empty)) := by
  cases e with
  | write offset width w =>
    rcases h with ⟨rfl, rfl, ⟨cause, rfl⟩ | ⟨i, hi, hb, he⟩⟩ | ⟨r, -, -, rfl⟩
    · exact absurd rfl hne
    · exact .inr (.inl ⟨w, i, rfl, hi, hb, he.result_writer hne⟩)
    · exact absurd (s.writeReg_result r w) hne
  | read => obtain ⟨v, rfl⟩ := h; exact absurd rfl hne
  | bnz => obtain ⟨v, events, rfl⟩ := h; exact absurd rfl hne
  | remTest => obtain ⟨v, events, rfl⟩ := h; exact absurd rfl hne
  | reset => exact .inl rfl
  | storeData => obtain ⟨-, rfl⟩ := h; exact absurd rfl hne
  | core => exact .inr (.inr ⟨rfl, CoreEffect.result_writer h hne⟩)

/-! The register map as a list, for the HOST's accesses at its sixteen offsets (rule R31). -/

/-- The sixteen offsets and the register at each. -/
def registerMap : List (Nat × Reg) :=
  [(0x00, .ctrl), (0x04, .status), (0x08, .seed), (0x0C, .len), (0x10, .result), (0x14, .a), (0x18, .b), (0x1C, .c),
    (0x20, .off), (0x24, .rem), (0x28, .dsize), (0x2C, .reserved), (0x30, .reserved), (0x34, .reserved),
    (0x38, .reserved), (0x3C, .reserved)]

theorem Reg.ofAccess_of_mem : ∀ p ∈ registerMap, Reg.ofAccess p.1 4 = some p.2 := by decide

/-- The registers a HOST write does not change (rule R31). -/
def readOnlyRegs : List Reg := [.result, .off, .rem, .dsize, .reserved]

theorem exists_readOnlyReg : ∀ offset ∈ [0x10, 0x20, 0x24, 0x28, 0x2C, 0x30, 0x34, 0x38, 0x3C],
    ∃ r ∈ readOnlyRegs, (offset, r) ∈ registerMap := by decide

theorem hostWrite_readOnly {offset : Nat} {r : Reg} (hmem : (offset, r) ∈ registerMap) (hr : r ∈ readOnlyRegs) (w : Word)
    (s : State) : hostWrite offset 4 w s = .next s := by
  simp only [hostWrite, Reg.ofAccess_of_mem _ hmem]
  simp only [readOnlyRegs, List.mem_cons, List.not_mem_nil, or_false] at hr
  rcases hr with rfl | rfl | rfl | rfl | rfl <;> rfl

theorem hostRead_of_mem {offset : Nat} {r : Reg} (hmem : (offset, r) ∈ registerMap) (s : State) :
    hostRead offset 4 s = .next (s.respond (s.readReg r)) := by
  simp only [hostRead, Reg.ofAccess_of_mem _ hmem]

/-! The bits of the STATUS word (rule R29). -/

/-- A flag placed at bit `n`. -/
theorem flagWord_shiftLeft_getLsbD (b : Bool) {n : Nat} (hn : n < 32) (j : Nat) :
    (flagWord b <<< n).getLsbD j = (decide (j = n) && b) := by
  have hbit : (flagWord b).getLsbD (j - n) = (decide (j - n = 0) && b) := by
    simp only [flagWord, BitVec.getLsbD_setWidth, BitVec.getLsbD_ofBool]
    by_cases h : j - n = 0 <;> simp [h]
  rw [BitVec.getLsbD_shiftLeft, hbit]
  by_cases h : j = n
  · simp [h, hn]
  · by_cases hlt : j < n
    · simp [h, hlt]
    · simp [h, show j - n ≠ 0 by omega]

/-- A code of three bits placed from bit `n`. -/
theorem code_shiftLeft_getLsbD (code : BitVec 3) {n : Nat} (hn : n + 3 ≤ 32) (j : Nat) :
    (code.setWidth 32 <<< n).getLsbD j = (decide (n ≤ j) && code.getLsbD (j - n)) := by
  rw [BitVec.getLsbD_shiftLeft, BitVec.getLsbD_setWidth]
  by_cases hlow : j < n
  · simp [hlow, Nat.not_le.mpr hlow]
  · by_cases hhigh : j - n < 3
    · simp [hlow, Nat.not_lt.mp hlow, show j < 32 by omega, show j - n < 32 by omega]
    · simp [BitVec.getLsbD_of_ge code (j - n) (Nat.not_lt.mp hhigh)]

/-- Every bit of STATUS: three flags, the code of ECODE from bit 4, the code of PHASE from bit 8. -/
theorem State.statusWord_getLsbD (s : State) (j : Nat) : s.statusWord.getLsbD j =
    (decide (j = 0) && s.busy || decide (j = 1) && s.done || decide (j = 2) && s.err ||
      decide (4 ≤ j) && s.ecode.code.getLsbD (j - 4) || decide (8 ≤ j) && s.phase.code.getLsbD (j - 8)) := by
  have hbusy := flagWord_shiftLeft_getLsbD s.busy (n := 0) (by decide) j
  rw [BitVec.shiftLeft_zero] at hbusy
  simp only [State.statusWord, BitVec.getLsbD_or, hbusy, flagWord_shiftLeft_getLsbD s.done (n := 1) (by decide) j,
    flagWord_shiftLeft_getLsbD s.err (n := 2) (by decide) j, code_shiftLeft_getLsbD s.ecode.code (n := 4) (by decide) j,
    code_shiftLeft_getLsbD s.phase.code (n := 8) (by decide) j]

theorem State.statusWord_phase (s : State) : s.statusWord.extractLsb' 8 3 = s.phase.code := by
  apply BitVec.eq_of_getLsbD_eq
  intro j hj
  have hecode : s.ecode.code.getLsbD (8 + j - 4) = false := BitVec.getLsbD_of_ge _ _ (by omega)
  simp [State.statusWord_getLsbD, hj, hecode, show 8 + j ≠ 1 by omega, show 8 + j ≠ 2 by omega]

theorem State.statusWord_ecode (s : State) : s.statusWord.extractLsb' 4 3 = s.ecode.code := by
  apply BitVec.eq_of_getLsbD_eq
  intro j hj
  have hphase : ¬8 ≤ 4 + j := by omega
  simp [State.statusWord_getLsbD, hj, hphase, show 4 + j ≠ 1 by omega, show 4 + j ≠ 2 by omega]

end Sys2Proof.Machine
end

section
/-! The invariant: it holds after reset, and every event and every CORE step keeps it (rules R26, R112, R141 and R143). -/

namespace Sys2Proof

open Sys2Proof.Machine

/-! PHASE's promise. -/

theorem phaseOk_of_idle {s : State} (h : s.phase = .idle) : phaseOk s := by simp [phaseOk, h]

/-- SelectNext answers a phase whose promise REM keeps (rule R112). -/
theorem phaseOk_choosePhase (s : State) : phaseOk s.choosePhase := by
  simp only [phaseOk, State.choosePhase_phase, State.choosePhase_rem, selectNext]
  by_cases h12 : 12#32 < s.rem
  · simp only [if_pos h12]; exact h12
  · by_cases h1 : 1#32 ≤ s.rem
    · simp only [if_neg h12, if_pos h1]; exact ⟨h1, BitVec.not_lt.mp h12⟩
    · simp only [if_neg h12, if_neg h1]; bv_omega

/-! OFF and REM. -/

/-- The part of the invariant about OFF and REM (rules R26 and R44). -/
structure InputOk (s : State) : Prop where
  inBounds : s.off.toNat + s.rem.toNat ≤ s.dsize.toNat
  offAligned : s.rem ≠ 0#32 → s.off.toNat % 12 = 0

theorem Inv.inputOk {s : State} (h : Inv s) : InputOk s := ⟨h.inBounds, h.offAligned⟩

theorem InputOk.congr {s t : State} (h : InputOk s) (hoff : t.off = s.off) (hrem : t.rem = s.rem)
    (hdsize : t.dsize = s.dsize) : InputOk t :=
  ⟨by rw [hoff, hrem, hdsize]; exact h.inBounds, by rw [hoff, hrem]; exact h.offAligned⟩

theorem opInit_inputOk {s : State} (h : s.len ≤ s.dsize) : InputOk (opInit s) where
  inBounds := by simpa [BitVec.le_def] using h
  offAligned := by simp

/-- Twelve bytes move from REM to OFF: their sum stays, and OFF stays a multiple of 12. -/
theorem opBlock_inputOk {s t : State} (h : InputOk s) (hrem : 12#32 < s.rem) (ht : opBlock s = .ok t) : InputOk t := by
  obtain ⟨v, rfl⟩ := opBlock_form ht
  obtain ⟨hin, hal⟩ := h
  have h0 : s.off.toNat % 12 = 0 := hal (by bv_omega)
  have hr : (s.rem - 12#32).toNat = s.rem.toNat - 12 := by bv_omega
  have ho : (s.off + 12#32).toNat = s.off.toNat + 12 := by bv_omega
  exact ⟨by simp only [State.setWords_dsize]; bv_omega, fun _ => by bv_omega⟩

/-- All of REM moves to OFF: no input is left. -/
theorem opTail_inputOk {s t : State} (h : InputOk s) (ht : opTail s = .ok t) : InputOk t := by
  obtain ⟨v, rfl⟩ := opTail_form ht
  have hin := h.inBounds
  exact ⟨by simp only [State.setWords_dsize]; bv_omega, fun hne => absurd rfl hne⟩

/-! The whole invariant. -/

/-- After an operation of a run only OFF, REM and PHASE have to be looked at again. -/
theorem Inv.of_run {s t : State} (h : Inv s) (hk : OnlyRunFieldsChange s t) (hin : InputOk t) (hp : phaseOk t) : Inv t where
  inBounds := hin.inBounds
  offAligned := hin.offAligned
  phase := hp
  ecode := by rw [hk.ecode, hk.err]; exact h.ecode
  ecodeLegal := by rw [hk.ecode]; exact h.ecodeLegal
  memWf := by rw [hk.mem]; exact h.memWf
  memBound := by rw [hk.mem, hk.dsize]; exact h.memBound

theorem inv_resetFor {dsize : Word} {mem : Memory} (hwf : mem.wf) (hbound : ∀ x ∈ mem, x.1 < dsize.toNat) :
    Inv (State.resetFor dsize mem) where
  inBounds := by simp
  offAligned := fun h => absurd rfl h
  phase := phaseOk_of_idle rfl
  ecode := by simp
  ecodeLegal := by simp
  memWf := hwf
  memBound := hbound

/-- The invariant does not speak of the fields of the model's own. -/
theorem Inv.with_inbox_readBack {s : State} (h : Inv s) (events : List Event) (v : Option Word) :
    Inv { s with inbox := events, readBack := v } :=
  ⟨h.inBounds, h.offAligned, h.phase, h.ecode, h.ecodeLegal, h.memWf, h.memBound⟩

theorem Inv.of_hwReset {s : State} (h : Inv s) : Inv s.hwReset :=
  (inv_resetFor h.memWf h.memBound).with_inbox_readBack s.inbox s.readBack

/-- An error records a legal code and ERR with it, or keeps the first one (rule R142). -/
theorem Inv.of_raise {s : State} (h : Inv s) (cause : Cause) : Inv (s.raise cause) where
  inBounds := h.inBounds
  offAligned := h.offAligned
  phase := h.phase
  ecode := by have := h.ecode; cases he : s.err <;> simp_all
  ecodeLegal := by have := h.ecodeLegal; cases he : s.err <;> simp_all
  memWf := h.memWf
  memBound := h.memBound

/-- A write to STATUS clears ERR and ECODE together, or neither (rule R128). -/
theorem Inv.of_acknowledge {s : State} (h : Inv s) (w : Word) : Inv (s.acknowledge w) where
  inBounds := h.inBounds
  offAligned := h.offAligned
  phase := h.phase
  ecode := by have := h.ecode; cases hw : w.getLsbD 2 <;> simp_all
  ecodeLegal := by have := h.ecodeLegal; cases hw : w.getLsbD 2 <;> simp_all
  memWf := h.memWf
  memBound := h.memBound

/-- The registers the HOST may write while BUSY = 0 are free in PHASE IDLE (rule R129). -/
theorem Inv.with_hostRegisters {s : State} (h : Inv s) (hb : s.busy = false) (seed len a b c : Word) :
    Inv { s with seed := seed, len := len, a := a, b := b, c := c } :=
  ⟨h.inBounds, h.offAligned, phaseOk_of_idle (State.busy_eq_false.mp hb), h.ecode, h.ecodeLegal, h.memWf, h.memBound⟩

theorem Inv.of_writeReg {s : State} (h : Inv s) (r : Reg) (w : Word) : Inv (s.writeReg r w) := by
  rcases s.writeReg_cases r w with hw | hw | hw | ⟨hb, seed, len, a, b, c, hw⟩
  · rw [hw]; exact h
  · rw [hw]; exact h.of_acknowledge w
  · rw [hw]; exact h.of_raise .busy
  · rw [hw]; exact h.with_hostRegisters hb seed len a b c

/-- A store inside the data space keeps its canonical form and lists no index outside it. -/
theorem Inv.of_store {s : State} (h : Inv s) {addr : Nat} (haddr : addr < s.dsize.toNat) (v : Byte) :
    Inv { s with mem := s.mem.write addr v } where
  inBounds := h.inBounds
  offAligned := h.offAligned
  phase := h.phase
  ecode := h.ecode
  ecodeLegal := h.ecodeLegal
  memWf := Memory.write_wf h.memWf addr v
  memBound := fun x hx => by
    rcases Memory.mem_write hx with ⟨rfl, -⟩ | hx
    · exact haddr
    · exact h.memBound x hx

/-- OFF and REM after a command: left alone, or moved by INIT, BLOCK or TAIL under the command's own check. -/
theorem inputOk_of_command {i : Instr} {s t : State} (he : CommandEffect i s t) (h : InputOk s) : InputOk t := by
  have hkept : i ≠ .init → i ≠ .block → i ≠ .tail → InputOk t := fun hinit hblock htail =>
    have ⟨hoff, hrem⟩ := he.input hinit hblock htail
    h.congr hoff hrem he.onlyRunFields.dsize
  cases i with
  | init => obtain ⟨hlen, rfl⟩ := he; exact (opInit_inputOk hlen).congr rfl rfl rfl
  | block => obtain ⟨hrem, u, hu, rfl⟩ := he; exact (opBlock_inputOk h hrem hu).congr rfl rfl rfl
  | tail => obtain ⟨-, -, u, hu, rfl⟩ := he; exact (opTail_inputOk h hu).congr rfl rfl rfl
  | nop | hash | final | mix | rot => exact hkept nofun nofun nofun

/-- A command leaves the core idle, or is a HASH accepted with LEN ≤ DSIZE (rule R120). -/
theorem phaseOk_of_command {i : Instr} {s t : State} (he : CommandEffect i s t) (hb : s.busy = false) :
    phaseOk t := by
  by_cases hi : i = .hash
  · subst hi
    obtain ⟨hlen, rfl⟩ := he
    exact hlen
  · exact phaseOk_of_idle ((he.phase hi).trans (State.busy_eq_false.mp hb))

theorem Inv.of_command {i : Instr} {s t : State} (h : Inv s) (hb : s.busy = false) (he : CommandEffect i s t) : Inv t :=
  h.of_run he.onlyRunFields (inputOk_of_command he h.inputOk) (phaseOk_of_command he hb)

/-- A CORE step takes what PHASE promises about LEN and REM and leaves what the next PHASE promises (rules R122 to R126). -/
theorem Inv.of_coreEffect {s t : State} (h : Inv s) (he : CoreEffect s t) : Inv t := by
  have hk := he.onlyRunFields
  have hp := h.phase
  cases hs : s.phase <;> simp only [CoreEffect, phaseOk, hs] at he hp
  case idle => subst he; exact h
  case init =>
    subst he
    exact h.of_run hk ((opInit_inputOk hp).congr rfl rfl rfl) (phaseOk_choosePhase _)
  case bulk =>
    obtain ⟨hrem, u, hu, rfl⟩ := he
    exact h.of_run hk ((opBlock_inputOk h.inputOk hrem hu).congr rfl rfl rfl) (phaseOk_choosePhase u)
  case tail =>
    obtain ⟨-, -, u, hu, rfl⟩ := he
    refine h.of_run hk ((opTail_inputOk h.inputOk hu).congr rfl rfl rfl) ?_
    obtain ⟨v, rfl⟩ := opTail_form hu
    exact rfl
  case final => subst he; exact h.of_run hk (h.inputOk.congr rfl rfl rfl) (phaseOk_of_idle rfl)
  case empty => subst he; exact h.of_run hk (h.inputOk.congr rfl rfl rfl) (phaseOk_of_idle rfl)

theorem Inv.of_event {e : Event} {s t : State} (h : Inv s) (he : EventEffect e s t) : Inv t := by
  cases e with
  | write offset width w =>
    rcases he with ⟨-, -, ⟨cause, rfl⟩ | ⟨i, -, hb, he⟩⟩ | ⟨r, -, -, rfl⟩
    · exact h.of_raise cause
    · exact h.of_command hb he
    · exact h.of_writeReg r w
  | read => obtain ⟨v, rfl⟩ := he; exact h.with_inbox_readBack s.inbox (some v)
  | bnz => obtain ⟨v, events, rfl⟩ := he; exact h.with_inbox_readBack events (some v)
  | remTest => obtain ⟨v, events, rfl⟩ := he; exact h.with_inbox_readBack events (some v)
  | reset => obtain rfl := he; exact h.of_hwReset
  | storeData addr v => obtain ⟨haddr, rfl⟩ := he; exact h.of_store haddr v
  | core => exact h.of_coreEffect he

end Sys2Proof
end

section
/-! The statements of 10_state.md. -/

namespace Sys2Proof

open Sys2Proof.Machine

/-- Settles O30: `step_cases` gives the event or the CORE step, and each keeps the invariant. -/
theorem invariantKeptByEveryStep : Obligations.InvariantKeptByEveryStep := by
  intro s t h hstep
  rcases step_cases hstep with ⟨-, he⟩ | ⟨e, rest, -, he⟩
  · exact h.of_coreEffect he
  · exact (h.with_inbox_readBack rest s.readBack).of_event he

/-- Settles O16: an error changes ERR and ECODE alone, and the effect of a command is framed field by field. -/
theorem commandFrames : Obligations.CommandFrames := by
  intro i s t h
  rcases exec_cases h with ⟨cause, rfl⟩ | ⟨-, he⟩
  · exact ⟨⟨rfl, rfl, rfl, rfl, rfl, rfl, fun _ => rfl⟩, fun _ => ⟨rfl, rfl, rfl⟩, fun _ _ _ => ⟨rfl, rfl⟩,
      fun _ _ => rfl, fun _ => rfl, fun _ => rfl⟩
  · have hk := he.onlyRunFields
    refine ⟨⟨hk.seed, hk.len, hk.dsize, hk.mem, hk.inbox, hk.readBack, State.memRead_congr hk.dsize hk.mem⟩,
      he.words, he.input, he.result, he.phase, ?_⟩
    rintro rfl
    exact congrArg State.done he

/-- Settles O25: bit by bit from `statusWord_getLsbD`, and the two codes case by case. -/
theorem statusLayout : Obligations.StatusLayout := by
  intro s
  refine ⟨?_, ?_, ?_, ?_, ?_, ?_, ?_, ?_⟩
  · rw [State.statusWord_getLsbD]; simp [State.busy, bne, beq_eq_decide]
  · rw [State.statusWord_getLsbD]; simp
  · rw [State.statusWord_getLsbD]; simp
  · rw [State.statusWord_getLsbD]; simp
  · rw [State.statusWord_getLsbD]; simp
  · intro j hj
    rw [State.statusWord_getLsbD, BitVec.getLsbD_of_ge s.ecode.code _ (by omega),
      BitVec.getLsbD_of_ge s.phase.code _ (by omega)]
    simp [show j ≠ 0 by omega, show j ≠ 1 by omega, show j ≠ 2 by omega]
  · rw [State.statusWord_phase]
    cases s.phase <;> rfl
  · rw [State.statusWord_ecode]
    cases s.ecode with
    | of cause => cases cause <;> rfl
    | none | reserved5 | reserved6 | reserved7 => rfl

/-- Settles O37: the event or the CORE step that changed RESULT. -/
theorem resultHasFewWriters : Obligations.ResultHasFewWriters := by
  intro s t hstep hne
  rcases step_cases hstep with ⟨hnil, he⟩ | ⟨e, rest, hcons, he⟩
  · exact .inr (.inr ⟨.inl hnil, he.result_writer hne⟩)
  · rcases he.result_writer hne with rfl | ⟨w, i, rfl, hi, hb, hfr⟩ | ⟨rfl, hp⟩
    · exact .inl ⟨rest, hcons⟩
    · exact .inr (.inl ⟨rest, w, i, hcons, hi, hb, hfr⟩)
    · exact .inr (.inr ⟨.inr ⟨rest, hcons⟩, hp⟩)

/-- Settles O23: each of the nine offsets is that of a read-only register. -/
theorem readOnlyWritesIgnored : Obligations.ReadOnlyWritesIgnored := by
  intro s rest offset w hoffset hinbox
  obtain ⟨r, hr, hmem⟩ := exists_readOnlyReg offset hoffset
  rw [step_of_cons hinbox]
  exact hostWrite_readOnly hmem hr w _

/-- Settles O24: the statement's table is the register map with each register's value. -/
theorem hostReads : Obligations.HostReads := by
  refine ⟨fun s rest offset v hinbox hv => ?_, fun s t h => (coreStep_cases h).result⟩
  obtain ⟨⟨o, r⟩, hmem, hread⟩ := List.mem_map (f := fun p => (p.1, s.readReg p.2)) (l := registerMap).mp hv
  cases hread
  rw [step_of_cons hinbox]
  exact hostRead_of_mem hmem _

/-- Settles O29: R38's values meet the invariant, and State.reset is one such state, with nothing listed. -/
theorem invariantAtReset : Obligations.InvariantAtReset :=
  ⟨fun _ _ => inv_resetFor, inv_resetFor State.reset_mem_wf nofun⟩

end Sys2Proof
end

section
/-! The data space's end in BLOCK and TAIL (rule R42): whichever read passes it, the operation answers OOB. -/

namespace Sys2Proof.Machine

theorem opBlock_error {s : State} (hend : s.dsize.toNat < s.off.toNat + 12) : opBlock s = .error .oob := by
  rcases opBlock_cases s with ⟨-, herr⟩ | ⟨hin, -⟩
  · exact herr
  · omega

/-- A guard that holds and whose byte is past the end. -/
theorem tailAdd_pastEnd {s : State} {guard : Nat} (hrem : guard ≤ s.rem.toNat)
    (hend : s.dsize.toNat ≤ s.off.toNat + (guard - 1)) (v : Word × Word × Word) : tailAdd s v guard = .error .oob := by
  simp only [tailAdd, if_pos hrem, State.memRead_error hend]
  rfl

/-- One guard whose byte is past the end is enough, wherever it stands: a guard before it succeeds or raises OOB itself. -/
theorem foldlM_tailAdd_error {s : State} {guard : Nat} (hrem : guard ≤ s.rem.toNat)
    (hend : s.dsize.toNat ≤ s.off.toNat + (guard - 1)) {guards : List Nat} (hmem : guard ∈ guards)
    (v : Word × Word × Word) : guards.foldlM (tailAdd s) v = .error .oob := by
  induction guards generalizing v with
  | nil => cases hmem
  | cons g rest ih =>
    rw [List.foldlM_cons]
    cases hg : tailAdd s v g with
    | error cause =>
      obtain ⟨rfl, -, -⟩ := tailAdd_error hg
      rfl
    | ok u =>
      rcases List.mem_cons.mp hmem with rfl | hrest
      · rw [tailAdd_pastEnd hrem hend] at hg; cases hg
      · exact ih hrest u

theorem mem_tailGuards {n : Nat} : n ∈ tailGuards ↔ 1 ≤ n ∧ n ≤ 12 := by
  simp only [tailGuards, List.mem_cons, List.not_mem_nil, or_false]
  omega

/-- The guard REM itself reads the last byte of the tail. -/
theorem opTail_error {s : State} (hlow : 1 ≤ s.rem.toNat) (hhigh : s.rem.toNat ≤ 12)
    (hend : s.dsize.toNat < s.off.toNat + s.rem.toNat) : opTail s = .error .oob := by
  have hfold : tailFold s tailGuards = .error .oob :=
    foldlM_tailAdd_error le_rfl (by omega) (mem_tailGuards.mpr ⟨hlow, hhigh⟩) _
  simp only [opTail, hfold]
  rfl

/-- BLOCK past its check of REM reports Op_Block's error. -/
theorem exec_block_error {s : State} {cause : Cause} (hb : s.busy = false) (hrem : 12 < s.rem.toNat)
    (herr : opBlock s = .error cause) : exec .block s = .next (raised s cause) := by
  refine congrArg Host.Outcome.next (State.command_error hb ?_)
  rw [if_neg (show ¬s.rem ≤ 12#32 by bv_omega), herr]
  rfl

/-- TAIL past its check of REM reports Op_Tail's error. -/
theorem exec_tail_error {s : State} {cause : Cause} (hb : s.busy = false) (hlow : 1 ≤ s.rem.toNat)
    (hhigh : s.rem.toNat ≤ 12) (herr : opTail s = .error cause) : exec .tail s = .next (raised s cause) := by
  refine congrArg Host.Outcome.next (State.command_error hb ?_)
  rw [if_neg (show ¬(s.rem = 0#32 ∨ 12#32 < s.rem) by bv_omega), herr]
  rfl

end Sys2Proof.Machine
end

section
/-! Which HOST accesses are defined operations (rules R31 and R44), and that a defined one answers a next state. -/

namespace Sys2Proof.Machine

theorem registerMap_offset : ∀ p ∈ registerMap, p.1 % 4 = 0 ∧ p.1 < 64 := by decide

theorem exists_mem_registerMap : ∀ offset < 64, offset % 4 = 0 → ∃ p ∈ registerMap, p.1 = offset := by decide

theorem Reg.ofAccess_eq_none {offset width : Nat} (h : width ≠ 4 ∨ offset % 4 ≠ 0 ∨ 64 ≤ offset) :
    Reg.ofAccess offset width = none := by
  cases hr : Reg.ofAccess offset width with
  | none => rfl
  | some r =>
    obtain ⟨hwidth, hmem⟩ := Reg.ofAccess_eq_some hr
    obtain ⟨haligned, hbound⟩ := registerMap_offset (offset, r) hmem
    simp only at haligned hbound
    omega

theorem hostWrite_undefined {offset width : Nat} (h : Reg.ofAccess offset width = none) (w : Word) (s : State) :
    hostWrite offset width w s = .refused .undefinedAccess := by
  simp only [hostWrite, h]

theorem hostRead_undefined {offset width : Nat} (h : Reg.ofAccess offset width = none) (s : State) :
    hostRead offset width s = .refused .undefinedAccess := by
  simp only [hostRead, h]

/-- No command stops the machine (rules R140 and R142). -/
theorem exec_next (i : Instr) (s : State) : ∃ t, exec i s = .next t := by
  cases i <;> exact ⟨_, rfl⟩

theorem ctrlWrite_next (w : Word) (s : State) : ∃ t, ctrlWrite w s = .next t := by
  unfold ctrlWrite
  split
  · exact ⟨_, rfl⟩
  · split
    · exact exec_next _ s
    · exact ⟨_, rfl⟩

theorem hostWrite_next_of_mem {offset : Nat} {r : Reg} (hmem : (offset, r) ∈ registerMap) (w : Word) (s : State) :
    ∃ t, hostWrite offset 4 w s = .next t := by
  simp only [hostWrite, Reg.ofAccess_of_mem _ hmem]
  split
  · exact ctrlWrite_next w s
  · exact ⟨_, rfl⟩
  · contradiction

end Sys2Proof.Machine
end

section
/-! DSIZE and the data space over one event and one step (rules R33, R45 and R166). -/

namespace Sys2Proof.Machine

/-- DSIZE and the list that holds the data space are as they were. -/
def SameDataSpace (s t : State) : Prop := t.dsize = s.dsize ∧ t.mem = s.mem

theorem OnlyRunFieldsChange.sameDataSpace {s t : State} (h : OnlyRunFieldsChange s t) : SameDataSpace s t :=
  ⟨h.dsize, h.mem⟩

theorem State.writeReg_sameDataSpace (s : State) (r : Reg) (w : Word) : SameDataSpace s (s.writeReg r w) := by
  rcases s.writeReg_cases r w with h | h | h | ⟨-, seed, len, a, b, c, h⟩ <;> rw [h] <;> exact ⟨rfl, rfl⟩

/-- Every event but a store of the platform keeps the data space. -/
theorem EventEffect.sameDataSpace {e : Event} {s t : State} (h : EventEffect e s t)
    (hstore : ∀ addr v, e ≠ .storeData addr v) : SameDataSpace s t := by
  cases e with
  | write offset width w =>
    rcases h with ⟨-, -, ⟨cause, rfl⟩ | ⟨i, -, -, he⟩⟩ | ⟨r, -, -, rfl⟩
    · exact ⟨rfl, rfl⟩
    · exact he.onlyRunFields.sameDataSpace
    · exact s.writeReg_sameDataSpace r w
  | read => obtain ⟨v, rfl⟩ := h; exact ⟨rfl, rfl⟩
  | bnz => obtain ⟨v, events, rfl⟩ := h; exact ⟨rfl, rfl⟩
  | remTest => obtain ⟨v, events, rfl⟩ := h; exact ⟨rfl, rfl⟩
  | reset => obtain rfl := h; exact ⟨rfl, rfl⟩
  | storeData addr v => exact absurd rfl (hstore addr v)
  | core => exact (CoreEffect.onlyRunFields h).sameDataSpace

/-- A step keeps the data space, or its event is a store of the platform. -/
theorem step_sameDataSpace_or_store {s t : State} (h : step s = .next t) :
    SameDataSpace s t ∨
    ∃ addr v rest, s.inbox = .storeData addr v :: rest ∧ perform (.storeData addr v) (after s rest) = .next t := by
  rcases step_cases h with ⟨-, he⟩ | ⟨e, rest, hcons, he⟩
  · exact .inl he.onlyRunFields.sameDataSpace
  · by_cases hstore : ∃ addr v, e = .storeData addr v
    · obtain ⟨addr, v, rfl⟩ := hstore
      exact .inr ⟨addr, v, rest, hcons, step_of_cons hcons ▸ h⟩
    · exact .inl (he.sameDataSpace fun addr v hev => hstore ⟨addr, v, hev⟩)

end Sys2Proof.Machine
end

section
/-! The statements of 20_memory.md. -/

namespace Sys2Proof

open Sys2Proof.Machine

/-- Settles O15: the operation's own read past the end is the error the command raises. -/
theorem readsPastTheEndRaiseOob : Obligations.ReadsPastTheEndRaiseOob :=
  ⟨fun _ hb hrem hend => exec_block_error hb hrem (opBlock_error hend),
    fun _ hb hlow hhigh hend => exec_tail_error hb hlow hhigh (opTail_error hlow hhigh hend)⟩

/-- Settles O26: the register map has no other offset than the aligned ones below 64, and each of those. -/
theorem undefinedAccessesRefused : Obligations.UndefinedAccessesRefused := by
  refine ⟨fun s rest offset width w hundefined => ?_, fun s rest offset w haligned hbound hinbox => ?_⟩
  · have hnone := Reg.ofAccess_eq_none hundefined
    exact ⟨fun hinbox => (step_of_cons hinbox).trans (hostWrite_undefined hnone w _),
      fun hinbox => (step_of_cons hinbox).trans (hostRead_undefined hnone _)⟩
  · obtain ⟨⟨_, r⟩, hmem, rfl⟩ := exists_mem_registerMap offset hbound haligned
    rcases hinbox with hinbox | hinbox <;> rw [step_of_cons hinbox]
    · exact hostWrite_next_of_mem hmem w _
    · exact ⟨_, hostRead_of_mem hmem _⟩

/-- Settles O34: only the store's own case is left, and a store that is performed in a run changes no byte. -/
theorem dataSpaceStable : Obligations.DataSpaceStable := by
  refine ⟨fun s t h => ?_, fun s t h hnot => ?_, fun s t hwf hb h addr => ?_⟩
  · rcases step_sameDataSpace_or_store h with ⟨hdsize, -⟩ | ⟨_, _, _, -, hstore⟩
    · exact hdsize
    · obtain ⟨-, rfl⟩ := perform_cases hstore
      rfl
  · rcases step_sameDataSpace_or_store h with ⟨-, hmem⟩ | ⟨a, v, rest, hcons, -⟩
    · exact hmem
    · exact absurd hcons (hnot a v rest)
  · rcases step_sameDataSpace_or_store h with ⟨-, hmem⟩ | ⟨a, v, rest, -, hstore⟩
    · rw [hmem]
    · have hkept : RunKept (after s rest) t := perform_busy (e := .storeData a v) hwf hb nofun nofun hstore
      exact congrFun hkept.read addr

/-- Settles O33: the model's choice of whose step comes next, read off `step`. -/
theorem turnsOfTheCore : Obligations.TurnsOfTheCore :=
  ⟨fun _ => step_of_nil, fun _ _ => step_of_cons⟩

end Sys2Proof
end

section
/-! The decoder by its clauses, on the fields of a word (rules R61 and R63 to R67), against the encoder and the list of
legal words. -/

namespace Sys2Proof

theorem encode_rot_fields (k : BitVec 5) :
    rsvField (encode (.rot k)) = 0#23 ∧ opField (encode (.rot k)) = 0x7#4 ∧ kField (encode (.rot k)) = k := by
  revert k
  decide

theorem decodeFields_rot {k : BitVec 5} (hk : k ≠ 0#5) : decodeFields 0#23 0x7#4 k = .ok (.rot k) := by
  simp [decodeFields, hk]

/-- The decoder reads every legal command back from its word. -/
theorem decode_encode {i : Instr} (h : i.wellFormed = true) : decode (encode i) = .ok i := by
  cases i with
  | nop => exact decode_word_nop
  | hash => exact decode_word_hash
  | init => exact decode_word_init
  | block => exact decode_word_block
  | tail => exact decode_word_tail
  | final => exact decode_word_final
  | mix => exact decode_word_mix
  | rot k =>
    have hk : k ≠ 0#5 := by simpa [Instr.wellFormed] using h
    obtain ⟨hrsv, hop, hkf⟩ := encode_rot_fields k
    rw [decode, hrsv, hop, hkf, decodeFields_rot hk]

/-- What the decoder accepts is a legal command, and the word is that command's own. -/
theorem encode_of_decode {w : Word} {i : Instr} (h : decode w = .ok i) : i.wellFormed = true ∧ encode i = w := by
  obtain ⟨hrsv, hwf, hword⟩ := decodeFields_ok h
  refine ⟨hwf, ?_⟩
  rw [hword, ← hrsv]
  exact (word_eq_fields w).symm

/-! The checks of rule R64 in their order, each on a word that has passed the ones before it. -/

theorem decode_rsvSet {w : Word} (h : rsvField w ≠ 0#23) : decode w = .error .rsvSet := decodeFields_rsv h _ _

theorem decode_opReserved {w : Word} (hrsv : rsvField w = 0#23) (hop : 8 ≤ (opField w).toNat) :
    decode w = .error .opReserved := by
  have hop : 0x8#4 ≤ opField w := by bv_omega
  simp [decode, decodeFields, hrsv, hop]

theorem decode_rotZero {w : Word} (hrsv : rsvField w = 0#23) (hop : (opField w).toNat = 7) (hk : kField w = 0#5) :
    decode w = .error .rotZero := by
  have hop : opField w = 0x7#4 := BitVec.eq_of_toNat_eq hop
  rw [decode, hrsv, hop, hk]
  rfl

theorem decode_kMisused {w : Word} (hrsv : rsvField w = 0#23) (hop : (opField w).toNat < 8)
    (hrot : (opField w).toNat ≠ 7) (hk : kField w ≠ 0#5) : decode w = .error .kMisused := by
  have hlegal : ¬0x8#4 ≤ opField w := by bv_omega
  have hrot : opField w ≠ 0x7#4 := by bv_omega
  simp [decode, decodeFields, hrsv, hlegal, hrot, hk]

/-- The row of rule R63's map for an OP below 8, ROT with its amount. -/
def commandOfOp (op : Nat) (k : BitVec 5) : Instr :=
  match op with
  | 0 => .nop
  | 1 => .hash
  | 2 => .init
  | 3 => .block
  | 4 => .tail
  | 5 => .final
  | 6 => .mix
  | _ => .rot k

theorem decodeFields_commandOfOp {op : BitVec 4} {k : BitVec 5} (hop : op.toNat < 8) (hk : k = 0#5 ↔ op.toNat ≠ 7) :
    decodeFields 0#23 op k = .ok (commandOfOp op.toNat k) := by
  have hcases : op = 7#4 ∨ op = 0#4 ∨ op = 1#4 ∨ op = 2#4 ∨ op = 3#4 ∨ op = 4#4 ∨ op = 5#4 ∨ op = 6#4 := by bv_omega
  rcases hcases with rfl | rfl | rfl | rfl | rfl | rfl | rfl | rfl
  · exact decodeFields_rot fun h => hk.mp h rfl
  all_goals
    obtain rfl : k = 0#5 := hk.mpr (by decide)
    rfl

/-- A word that passes every check is the command of its OP. -/
theorem decode_commandOfOp {w : Word} (hrsv : rsvField w = 0#23) (hop : (opField w).toNat < 8)
    (hk : kField w = 0#5 ↔ (opField w).toNat ≠ 7) : decode w = .ok (commandOfOp (opField w).toNat (kField w)) := by
  rw [decode, hrsv, decodeFields_commandOfOp hop hk]

/-! The list of the legal words (rules R67 and R68). -/

theorem encode_mem_legalWords {i : Instr} (h : i.wellFormed = true) : encode i ∈ legalWords := by
  cases i with
  | nop | hash | init | block | tail | final | mix => decide
  | rot k =>
    revert k
    decide

theorem exists_encode_of_mem_legalWords {w : Word} (h : w ∈ legalWords) :
    ∃ i : Instr, i.wellFormed = true ∧ encode i = w := by
  have hfixed : ∀ n < 7, (commandOfOp n 0#5).wellFormed = true ∧ encode (commandOfOp n 0#5) = BitVec.ofNat 32 n := by
    decide
  have hrot : ∀ j < 31, Instr.wellFormed (.rot (BitVec.ofNat 5 (j + 1))) = true ∧
      encode (.rot (BitVec.ofNat 5 (j + 1))) = BitVec.ofNat 32 (7 + 16 * (j + 1)) := by decide
  rcases List.mem_append.mp h with h | h
  · obtain ⟨n, hn, rfl⟩ := List.mem_map.mp h
    exact ⟨_, hfixed n (List.mem_range.mp hn)⟩
  · obtain ⟨j, hj, rfl⟩ := List.mem_map.mp h
    exact ⟨_, hrot j (List.mem_range.mp hj)⟩

theorem decode_isOk_iff_mem_legalWords (w : Word) : (∃ i, decode w = .ok i) ↔ w ∈ legalWords := by
  constructor
  · rintro ⟨i, hi⟩
    obtain ⟨hwf, rfl⟩ := encode_of_decode hi
    exact encode_mem_legalWords hwf
  · intro hw
    obtain ⟨i, hwf, rfl⟩ := exists_encode_of_mem_legalWords hw
    exact ⟨i, decode_encode hwf⟩

theorem decode_error_of_not_mem_legalWords {w : Word} (h : w ∉ legalWords) : ∃ e, decode w = .error e := by
  cases hd : decode w with
  | error e => exact ⟨e, rfl⟩
  | ok i => exact absurd ((decode_isOk_iff_mem_legalWords w).mp ⟨i, hd⟩) h

theorem decode_of_decodeTableWord {nbits w : Nat} {i : Instr} (h : decodeTableWord nbits w = some i) :
    decode (BitVec.ofNat 32 (w % 2 ^ nbits)) = .ok i := by
  unfold decodeTableWord at h
  split at h
  · split at h
    · rename_i hd; cases h; exact hd
    · cases h
  · cases h

end Sys2Proof
end

section
/-! A write to CTRL by what the decoder answers (rule R64), and the HOST's branch and test (rules R71 and R72). -/

namespace Sys2Proof.Machine

theorem step_write_ctrl {s : State} {rest : List Event} {w : Word} (h : s.inbox = .write 0x00 4 w :: rest) :
    step s = ctrlWrite w (after s rest) := step_of_cons h

theorem ctrlWrite_busy {s : State} (h : s.busy = true) (w : Word) : ctrlWrite w s = .next (raised s .busy) := if_pos h

/-- The write of a legal word is its command, BUSY or not: the command repeats the check (log entry 14). -/
theorem ctrlWrite_ok {w : Word} {i : Instr} (h : decode w = .ok i) (s : State) : ctrlWrite w s = exec i s := by
  cases hb : s.busy with
  | true => rw [ctrlWrite_busy hb, exec_busy i hb]
  | false => simp [ctrlWrite, hb, h]

theorem ctrlWrite_error {w : Word} {e : DecodeError} {s : State} (hb : s.busy = false) (h : decode w = .error e) :
    ctrlWrite w s = .next (raised s .illegal) := by
  simp [ctrlWrite, hb, h, State.raise_eq_raised]

/-- Each row of rule R63's map is performed by its own command. -/
theorem exec_commandOfOp (op : Nat) (k : BitVec 5) (s : State) :
    exec (commandOfOp op k) s =
      match op with
      | 0 => exec .nop s
      | 1 => exec .hash s
      | 2 => exec .init s
      | 3 => exec .block s
      | 4 => exec .tail s
      | 5 => exec .final s
      | 6 => exec .mix s
      | _ => exec (.rot k) s := by
  match op with
  | 0 | 1 | 2 | 3 | 4 | 5 | 6 => rfl
  | _ + 7 => rfl

/-- A branch at a register of the map reads it, and the loop's events come next while the bit is 1. -/
theorem hostBranch_of_mem {offset : Nat} {r : Reg} (hmem : (offset, r) ∈ registerMap) (bit : Fin 32) (s : State) :
    hostBranch offset bit s = .next { s.respond (s.readReg r) with
      inbox := if (s.readReg r).getLsbD bit then .core :: .read offset 4 :: .bnz offset bit :: s.inbox else s.inbox } := by
  simp only [hostBranch, Reg.ofAccess_of_mem _ hmem]
  split <;> rfl

theorem State.statusWord_busy (s : State) : s.statusWord.getLsbD 0 = s.busy := by
  rw [State.statusWord_getLsbD]
  simp

end Sys2Proof.Machine
end

section
/-! The statements of 30_encoding.md. -/

namespace Sys2Proof

open Sys2Proof.Machine

/-- Settles O3: the seven fixed words, and ROT's word by its fields. -/
theorem decodeOfEncode : Obligations.DecodeOfEncode := fun _ => decode_encode

/-- Settles O4: the fields of an accepted word are those of the command's own word. -/
theorem encodeOfDecode : Obligations.EncodeOfDecode := fun _ _ => encode_of_decode

/-- Settles O5: the listed words are those of the legal commands, and any other word ends in one of the decoder's errors. -/
theorem legalWordsAreThirtyEight : Obligations.LegalWordsAreThirtyEight := by
  refine ⟨by decide, by decide, decode_isOk_iff_mem_legalWords, fun w => ⟨fun h => ?_, ?_⟩, ?_⟩
  · exact (encode_of_decode h).2.symm
  · rintro rfl
    exact decode_word_nop
  · intro s rest w hinbox hb hw
    obtain ⟨e, he⟩ := decode_error_of_not_mem_legalWords hw
    exact (step_write_ctrl hinbox).trans (ctrlWrite_error hb he)

/-- Settles O6: line by line of R64, each refusal by the decoder's clause for it. -/
theorem ctrlWriteDispatch : Obligations.CtrlWriteDispatch := by
  intro s rest w hinbox
  rw [step_write_ctrl hinbox]
  change ctrlWrite w (after s rest) = if (after s rest).busy then _ else if rsvField w ≠ 0#23 then _ else
    if 8 ≤ (opField w).toNat then _ else if (opField w).toNat = 7 ∧ kField w = 0#5 then _ else
    if (opField w).toNat ≠ 7 ∧ kField w ≠ 0#5 then _ else _
  split_ifs with hb hrsv hop hzero hmisused
  · exact ctrlWrite_busy hb w
  · exact ctrlWrite_error (Bool.eq_false_iff.mpr hb) (decode_rsvSet hrsv)
  · exact ctrlWrite_error (Bool.eq_false_iff.mpr hb) (decode_opReserved (not_not.mp hrsv) hop)
  · exact ctrlWrite_error (Bool.eq_false_iff.mpr hb) (decode_rotZero (not_not.mp hrsv) hzero.1 hzero.2)
  · exact ctrlWrite_error (Bool.eq_false_iff.mpr hb)
      (decode_kMisused (not_not.mp hrsv) (not_le.mp hop) hmisused.1 hmisused.2)
  · rw [ctrlWrite_ok (decode_commandOfOp (not_not.mp hrsv) (not_le.mp hop) (by tauto))]
    exact exec_commandOfOp (opField w).toNat (kField w) (after s rest)

/-- Settles O1: with a legal word the write is the command. -/
theorem stepRunsTheWrittenCommand : Obligations.StepRunsTheWrittenCommand :=
  ⟨fun _ _ _ _ hi hinbox => (step_write_ctrl hinbox).trans (ctrlWrite_ok hi _),
    fun s _ _ _ hi => (step_write_ctrl rfl).trans (ctrlWrite_ok (decode_of_decodeTableWord hi) s)⟩

/-- Settles O2: the ten words are their commands' own, and each of the six others breaks one check. -/
theorem specWordsDecode : Obligations.SpecWordsDecode :=
  ⟨decode_word_nop, decode_word_hash, decode_word_init, decode_word_block, decode_word_tail, decode_word_final,
    decode_word_mix, decode_encode (i := .rot 4#5) rfl, decode_encode (i := .rot 16#5) rfl,
    decode_encode (i := .rot 31#5) rfl, decode_rotZero rfl rfl rfl, decode_rsvSet (by decide),
    decode_opReserved rfl (by decide), decode_opReserved rfl (by decide), decode_rsvSet (by decide),
    decode_kMisused rfl (by decide) (by decide) (by decide)⟩

/-- Settles O27: the branch's register is STATUS, and its bit 0 is BUSY. -/
theorem pollLoopBranch : Obligations.PollLoopBranch := by
  intro s rest hinbox
  have hmem : (0x04, Reg.status) ∈ registerMap := by decide
  have hbusy : ((after s rest).readReg .status).getLsbD (0 : Fin 32) = s.busy := (after s rest).statusWord_busy
  rw [step_of_cons hinbox]
  refine (hostBranch_of_mem hmem 0 (after s rest)).trans ?_
  rw [hbusy]
  rfl

/-- Settles O52: the test's two comparisons of words are those of the numbers. -/
theorem stepHashTest : Obligations.StepHashTest := by
  intro s rest hinbox
  have hmore : 12#32 < s.rem ↔ 12 < s.rem.toNat := BitVec.lt_def
  have hzero : s.rem = 0#32 ↔ s.rem.toNat = 0 := BitVec.toNat_inj.symm
  rw [step_of_cons hinbox]
  simp only [perform, hostRemTest, after, hmore, hzero]
  split_ifs <;> rfl

end Sys2Proof
end

section
/-! Rotate bit by bit (rules R80 and R83): each law of Rotate is read off where a result bit comes from. -/

namespace Sys2Proof.Machine

/-- The bit law for every amount up to 32, both ends included; there Rotate is the identity. -/
theorem rotate_getLsbD (x : Word) {k i : Nat} (hk : k ≤ 32) (hi : i < 32) :
    (rotate x k).getLsbD i = x.getLsbD ((i + (32 - k)) % 32) := by
  rw [rotate, BitVec.getLsbD_or, BitVec.getLsbD_shiftLeft, BitVec.getLsbD_ushiftRight]
  by_cases hik : i < k
  · rw [Nat.mod_eq_of_lt (by omega)]
    simp [hik, Nat.add_comm]
  · rw [BitVec.getLsbD_of_ge x (32 - k + i) (by omega), show (i + (32 - k)) % 32 = i - k by omega]
    simp [hi, hik]

theorem rotate_rotate (x : Word) {j k : Nat} (h : j + k ≤ 32) : rotate (rotate x j) k = rotate x (j + k) := by
  refine BitVec.eq_of_getLsbD_eq fun i hi => ?_
  rw [rotate_getLsbD _ (by omega) hi, rotate_getLsbD _ (by omega) (Nat.mod_lt _ (by decide)), rotate_getLsbD _ h hi]
  congr 1
  omega

theorem rotate_32 (x : Word) : rotate x 32 = x := by
  refine BitVec.eq_of_getLsbD_eq fun i hi => ?_
  rw [rotate_getLsbD _ le_rfl hi, Nat.sub_self, Nat.add_zero, Nat.mod_eq_of_lt hi]

/-- The two amounts make up the whole circle. -/
theorem rotate_inverse (x : Word) {j k : Nat} (h : j + k = 32) : rotate (rotate x j) k = x := by
  rw [rotate_rotate x h.le, h, rotate_32]

theorem rotate_bijective {k : Nat} (hk : k ≤ 32) : Function.Bijective fun x : Word => rotate x k :=
  Function.bijective_iff_has_inverse.mpr
    ⟨fun x => rotate x (32 - k), fun x => rotate_inverse x (Nat.add_sub_cancel' hk),
      fun x => rotate_inverse x (Nat.sub_add_cancel hk)⟩

/-- The sources of a rotated word's bits are the bit indices, rotated as a list. -/
theorem map_source_eq_rotate (n : Nat) :
    (List.range 32).map (fun i => (i + n) % 32) = (List.range 32).rotate n := by
  refine List.ext_getElem (by simp) fun i _ _ => ?_
  simp [List.getElem_rotate]

theorem rotate_countP (x : Word) {k : Nat} (hk : k ≤ 32) :
    ((List.range 32).countP fun i => (rotate x k).getLsbD i) = (List.range 32).countP fun i => x.getLsbD i := by
  calc ((List.range 32).countP fun i => (rotate x k).getLsbD i)
    _ = (List.range 32).countP ((fun i => x.getLsbD i) ∘ fun i => (i + (32 - k)) % 32) :=
        List.countP_congr fun i hi => by rw [rotate_getLsbD x hk (List.mem_range.mp hi), Function.comp]
    _ = ((List.range 32).rotate (32 - k)).countP fun i => x.getLsbD i := by
        rw [← List.countP_map, map_source_eq_rotate]
    _ = (List.range 32).countP fun i => x.getLsbD i := (List.rotate_perm _ _).countP_eq _

/-! The words of 32 equal bits, which no rotation changes. -/

/-- Every bit is bit 0. -/
def EqualBits (x : Word) : Prop := ∀ i < 32, x.getLsbD i = x.getLsbD 0

theorem equalBits_iff (x : Word) : EqualBits x ↔ x = 0x00000000#32 ∨ x = 0xFFFFFFFF#32 := by
  constructor
  · intro h
    cases h0 : x.getLsbD 0 with
    | false => exact .inl (BitVec.eq_of_getLsbD_eq fun i hi => by rw [h i hi, h0, BitVec.getLsbD_zero])
    | true =>
      refine .inr (BitVec.eq_of_getLsbD_eq fun i hi => ?_)
      rw [h i hi, h0, show 0xFFFFFFFF#32 = BitVec.allOnes 32 from rfl, BitVec.getLsbD_allOnes, decide_eq_true hi]
  · rintro (rfl | rfl) <;> unfold EqualBits <;> decide

theorem EqualBits.rotate_eq {x : Word} (h : EqualBits x) {k : Nat} (hk : k ≤ 32) : rotate x k = x := by
  refine BitVec.eq_of_getLsbD_eq fun i hi => ?_
  rw [rotate_getLsbD x hk hi, h _ (Nat.mod_lt _ (by decide)), h i hi]

/-- Rotation by `i` brings bit 0 to bit `i`. -/
theorem equalBits_of_rotate_eq {x : Word} (h : ∀ k, 1 ≤ k → k ≤ 31 → rotate x k = x) : EqualBits x := by
  intro i hi
  rcases Nat.eq_zero_or_pos i with rfl | hpos
  · rfl
  · calc x.getLsbD i = (rotate x i).getLsbD i := by rw [h i hpos (by omega)]
      _ = x.getLsbD ((i + (32 - i)) % 32) := rotate_getLsbD x hi.le hi
      _ = x.getLsbD 0 := by rw [Nat.add_sub_cancel' hi.le, Nat.mod_self]

/-! The two corner amounts of rule R82. -/

theorem rotate_16 (x : Word) : rotate x 16 = x.extractLsb' 0 16 ++ x.extractLsb' 16 16 := by
  refine BitVec.eq_of_getLsbD_eq fun i hi => ?_
  rw [rotate_getLsbD x (by decide) hi, BitVec.getLsbD_append, BitVec.getLsbD_extractLsb', BitVec.getLsbD_extractLsb']
  split
  · rename_i hlow
    rw [Nat.mod_eq_of_lt (by omega)]
    simp [hlow, Nat.add_comm]
  · rw [show (i + (32 - 16)) % 32 = i - 16 by omega]
    simp [show i - 16 < 16 by omega]

theorem rotate_31 (x : Word) : rotate x 31 = x.rotateRight 1 := by
  rw [BitVec.rotateRight_def, rotate, BitVec.or_comm]

/-! The ROT command by its checks (rule R82). -/

theorem exec_rot {s : State} {k : BitVec 5} (hb : s.busy = false) (hk : k ≠ 0#5) :
    exec (.rot k) s = .next (State.setDone { s with result := rotate s.a k.toNat }) :=
  congrArg Host.Outcome.next (State.command_ok hb (if_neg hk))

theorem exec_rot_zero {s : State} (hb : s.busy = false) : exec (.rot 0#5) s = .next (raised s .illegal) :=
  congrArg Host.Outcome.next (State.command_error hb (if_pos rfl))

theorem decode_eq_rot_iff (w : Word) (k : BitVec 5) : decode w = .ok (.rot k) ↔ k ≠ 0#5 ∧ w = encode (.rot k) := by
  have hwf : Instr.wellFormed (.rot k) = true ↔ k ≠ 0#5 := bne_iff_ne
  constructor
  · intro h
    obtain ⟨hk, hw⟩ := encode_of_decode h
    exact ⟨hwf.mp hk, hw.symm⟩
  · rintro ⟨hk, rfl⟩
    exact decode_encode (hwf.mpr hk)

end Sys2Proof.Machine
end

section
/-! The statements of 40_rotate.md. -/

namespace Sys2Proof

open Sys2Proof.Machine

/-- Settles O46: the source of bit i, with the rule's i − k brought into range. -/
theorem rotateBits : Obligations.RotateBits := by
  intro x k i hlow hhigh hi
  refine ⟨rfl, ?_⟩
  rw [rotate_getLsbD x (by omega) hi]
  congr 1
  omega

/-- Settles O47: each law from the sources of the bits; a word fixed by every amount has equal bits. -/
theorem rotateLaws : Obligations.RotateLaws := by
  refine ⟨fun k _ hk => ⟨rotate_bijective (by omega), fun x => rotate_inverse x (by omega)⟩,
    fun x j k _ _ h => rotate_rotate x (by omega), fun x k _ hk => rotate_countP x (by omega), fun x => ?_⟩
  rw [← equalBits_iff]
  exact ⟨equalBits_of_rotate_eq, fun h k _ hk => h.rotate_eq (by omega)⟩

/-- Settles O14: the command by its checks, its word by the codec, and the corner cases by the laws of Rotate. -/
theorem rotRule : Obligations.RotRule := by
  refine ⟨fun _ _ hb hk => exec_rot hb hk, fun _ hb => exec_rot_zero hb, fun _ _ hb => exec_busy _ hb,
    decode_eq_rot_iff, fun k _ => ?_, fun x => ⟨rotate_16 x, rotate_31 x⟩, by decide⟩
  have hk : k.toNat ≤ 32 := by omega
  exact ⟨((equalBits_iff _).mpr (.inl rfl)).rotate_eq hk, ((equalBits_iff _).mpr (.inr rfl)).rotate_eq hk⟩

end Sys2Proof
end

section
/-! Mix as rounds that are undone one by one (rules R90 to R92), Finalize3 as rounds (rule R101), and the MIX command. -/

namespace Sys2Proof.Machine

/-- Undoing a list of steps, the last one first, brings back the value it began with. -/
theorem foldl_reverse_foldl {σ κ : Type} {round undo : σ → κ → σ} (h : ∀ v k, undo (round v k) k = v) (ks : List κ)
    (v : σ) : ks.reverse.foldl undo (ks.foldl round v) = v := by
  induction ks generalizing v with
  | nil => rfl
  | cons k ks ih =>
    rw [List.foldl_cons, List.reverse_cons, List.foldl_append, ih]
    exact h v k

/-- The amounts of Mix's six rounds, in order (rule R91). -/
def mixAmounts : List Nat := [4, 6, 8, 16, 19, 4]

/-- One round `z -= y; x ^= Rotate(z, k); x += z` of MixInverse (rule R92) on (y, z, x), the words in the order `mixRound`
hands them on, given back as (x, y, z). -/
def mixUnround (v : Word × Word × Word) (k : Nat) : Word × Word × Word :=
  ((v.2.2 ^^^ rotate (v.2.1 - v.1) k) + (v.2.1 - v.1), v.1, v.2.1 - v.1)

/-- z comes back first, and with it the rotated word that x was xored with. -/
theorem mixUnround_mixRound (v : Word × Word × Word) (k : Nat) : mixUnround (mixRound v k) k = v := by
  simp only [mixRound, mixUnround, BitVec.add_sub_cancel, xor_cancel_right, BitVec.sub_add_cancel]

theorem mixRound_mixUnround (v : Word × Word × Word) (k : Nat) : mixRound (mixUnround v k) k = v := by
  simp only [mixRound, mixUnround, BitVec.add_sub_cancel, xor_cancel_right, BitVec.sub_add_cancel]

theorem mix_eq_foldl_mixRound (a b c : Word) : mix a b c = mixAmounts.foldl mixRound (a, b, c) := rfl

theorem mixInverse_eq_foldl_mixUnround (v : Word × Word × Word) :
    mixInverse v = mixAmounts.reverse.foldl mixUnround v := rfl

theorem mixInverse_mix (a b c : Word) : mixInverse (mix a b c) = (a, b, c) := by
  rw [mix_eq_foldl_mixRound, mixInverse_eq_foldl_mixUnround]
  exact foldl_reverse_foldl mixUnround_mixRound mixAmounts (a, b, c)

theorem mix_mixInverse (v : Word × Word × Word) :
    mix (mixInverse v).1 (mixInverse v).2.1 (mixInverse v).2.2 = v := by
  rw [mix_eq_foldl_mixRound, mixInverse_eq_foldl_mixUnround]
  exact foldl_reverse_foldl mixRound_mixUnround mixAmounts.reverse v

theorem mix_bijective : Function.Bijective fun v : Word × Word × Word => mix v.1 v.2.1 v.2.2 :=
  Function.bijective_iff_has_inverse.mpr ⟨mixInverse, fun v => mixInverse_mix v.1 v.2.1 v.2.2, mix_mixInverse⟩

theorem mix_zero : mix 0#32 0#32 0#32 = (0#32, 0#32, 0#32) := by decide

/-- The words of Finalize3 stand in the order its seventh round hands them on: c, a, b. -/
theorem finalize3_eq_foldl_finalRound (a b c : Word) :
    ((finalize3 a b c).2.2, (finalize3 a b c).1, (finalize3 a b c).2.1) =
      [14, 11, 25, 16, 4, 14, 24].foldl finalRound (b, c, a) := rfl

theorem exec_mix {s : State} (hb : s.busy = false) :
    exec .mix s = .next (s.setWords (mix s.a s.b s.c)).setDone :=
  congrArg Host.Outcome.next (State.command_ok hb rfl)

/-- A legal command has only its own word. -/
theorem decode_eq_ok_iff {i : Instr} (hwf : i.wellFormed = true) (w : Word) : decode w = .ok i ↔ w = encode i := by
  constructor
  · exact fun h => (encode_of_decode h).2.symm
  · rintro rfl
    exact decode_encode hwf

end Sys2Proof.Machine
end

section
/-! The statements of 41_mix.md. -/

namespace Sys2Proof

open Sys2Proof.Machine

/-- Settles O48: MixInverse is Mix's six rounds undone, the last one first. -/
theorem mixIsReversible : Obligations.MixIsReversible := ⟨mixInverse_mix, mix_bijective, mix_zero⟩

/-- Settles O13: the command by its check, its word by the codec, and the rule's two values. -/
theorem mixRule : Obligations.MixRule :=
  ⟨fun _ hb => exec_mix hb, fun _ hb => exec_busy .mix hb, decode_eq_ok_iff (i := .mix) rfl, mix_zero, by decide⟩

/-- Settles O50: both functions' statements, read as rounds. -/
theorem roundsFollowTheRoleBinding : Obligations.RoundsFollowTheRoleBinding :=
  ⟨mix_eq_foldl_mixRound, finalize3_eq_foldl_finalRound⟩

end Sys2Proof
end

section
/-! Finalize3 as rounds that are undone one by one (rules R101 and R102), and the FINAL command. -/

namespace Sys2Proof.Machine

/-- The amounts of Finalize3's seven rounds, in order (rule R101). -/
def finalAmounts : List Nat := [14, 11, 25, 16, 4, 14, 24]

/-- Undoes `finalRound`: `z += Rotate(y, k); z ^= y`, the words in the order the round hands them on. -/
def finalUnround (v : Word × Word × Word) (k : Nat) : Word × Word × Word :=
  (v.2.2, (v.1 + rotate v.2.2 k) ^^^ v.2.2, v.2.1)

/-- A round hands y on as it is, so what was subtracted from z and xored with it is still known. -/
theorem finalUnround_finalRound (v : Word × Word × Word) (k : Nat) : finalUnround (finalRound v k) k = v := by
  simp only [finalRound, finalUnround, BitVec.sub_add_cancel, xor_cancel_right]

theorem finalRound_finalUnround (v : Word × Word × Word) (k : Nat) : finalRound (finalUnround v k) k = v := by
  simp only [finalRound, finalUnround, BitVec.add_sub_cancel, xor_cancel_right]

/-- (a, b, c) as (c, a, b), the order Finalize3's last round hands its words on in; twice gives (b, c, a), the order its
first round takes them in. -/
def cycleWords (v : Word × Word × Word) : Word × Word × Word := (v.2.2, v.1, v.2.1)

theorem cycleWords_cycleWords_cycleWords (v : Word × Word × Word) : cycleWords (cycleWords (cycleWords v)) = v := rfl

theorem cycleWords_injective : Function.Injective cycleWords :=
  Function.LeftInverse.injective (g := cycleWords ∘ cycleWords) cycleWords_cycleWords_cycleWords

theorem cycleWords_finalize3 (v : Word × Word × Word) :
    cycleWords (finalize3 v.1 v.2.1 v.2.2) = finalAmounts.foldl finalRound (cycleWords (cycleWords v)) :=
  finalize3_eq_foldl_finalRound v.1 v.2.1 v.2.2

/-- The rounds of Finalize3 undone, the last one first, between the same two orders of the words. -/
def finalize3Inverse (v : Word × Word × Word) : Word × Word × Word :=
  cycleWords (finalAmounts.reverse.foldl finalUnround (cycleWords v))

theorem finalize3Inverse_finalize3 (v : Word × Word × Word) : finalize3Inverse (finalize3 v.1 v.2.1 v.2.2) = v := by
  rw [finalize3Inverse, cycleWords_finalize3, foldl_reverse_foldl finalUnround_finalRound,
    cycleWords_cycleWords_cycleWords]

theorem finalize3_finalize3Inverse (v : Word × Word × Word) :
    finalize3 (finalize3Inverse v).1 (finalize3Inverse v).2.1 (finalize3Inverse v).2.2 = v := by
  have hrounds := foldl_reverse_foldl finalRound_finalUnround finalAmounts.reverse (cycleWords v)
  rw [List.reverse_reverse] at hrounds
  apply cycleWords_injective
  rw [cycleWords_finalize3, finalize3Inverse, cycleWords_cycleWords_cycleWords, hrounds]

theorem finalize3_bijective : Function.Bijective fun v : Word × Word × Word => finalize3 v.1 v.2.1 v.2.2 :=
  Function.bijective_iff_has_inverse.mpr ⟨finalize3Inverse, finalize3Inverse_finalize3, finalize3_finalize3Inverse⟩

theorem finalize3_zero : finalize3 0#32 0#32 0#32 = (0#32, 0#32, 0#32) := by decide

theorem exec_final {s : State} (hb : s.busy = false) : exec .final s = .next (opFinal s).setDone :=
  congrArg Host.Outcome.next (State.command_ok hb rfl)

end Sys2Proof.Machine
end

section
/-! The statements of 42_finalize.md. -/

namespace Sys2Proof

open Sys2Proof.Machine

/-- Settles O49: Finalize3's seven rounds are undone one by one, the last one first. -/
theorem finalizeThreeIsBijective : Obligations.FinalizeThreeIsBijective := ⟨finalize3_bijective, finalize3_zero⟩

/-- Settles O12: the command by its check, its word by the codec, and the rule's two values. -/
theorem finalRule : Obligations.FinalRule :=
  ⟨fun _ hb => exec_final hb, fun _ hb => exec_busy .final hb, decode_eq_ok_iff (i := .final) rfl, finalize3_zero,
    by decide⟩

end Sys2Proof
end

section
/-! The driver's operations and commands by their checks (rules R111 to R121), the CORE's steps by PHASE (rules R122 to
R127), and the tail fold in any order (rule R115). -/

namespace Sys2Proof.Machine

/-! SelectNext (rule R112). -/

theorem selectNext_bulk {r : Word} (h : 12 < r.toNat) : selectNext r = .bulk := if_pos h

theorem selectNext_tail {r : Word} (hlow : 1 ≤ r.toNat) (hhigh : r.toNat ≤ 12) : selectNext r = .tail := by
  rw [selectNext, if_neg (show ¬12#32 < r by bv_omega), if_pos (show 1#32 ≤ r from hlow)]

theorem selectNext_empty {r : Word} (h : r.toNat = 0) : selectNext r = .empty := by
  rw [selectNext, if_neg (show ¬12#32 < r by bv_omega), if_neg (show ¬1#32 ≤ r by bv_omega)]

theorem selectNext_eq_empty_iff (r : Word) : selectNext r = .empty ↔ r = 0#32 := by
  refine ⟨fun h => ?_, fun h => selectNext_empty (congrArg BitVec.toNat h)⟩
  unfold selectNext at h
  split at h
  · cases h
  · split at h
    · cases h
    · bv_omega

theorem selectNext_ne_idle (r : Word) : selectNext r ≠ .idle := by
  unfold selectNext
  split
  · nofun
  · split <;> nofun

/-! The commands. -/

/-- The state words after a block (rule R113). -/
def blockWords (s : State) : Word × Word × Word :=
  mix (s.a + refWord s.mem.read s.off.toNat) (s.b + refWord s.mem.read (s.off.toNat + 4))
    (s.c + refWord s.mem.read (s.off.toNat + 8))

theorem opBlock_ok {s : State} (h : s.off.toNat + 12 ≤ s.dsize.toNat) :
    opBlock s = .ok { s.setWords (blockWords s) with off := s.off + 12#32, rem := s.rem - 12#32 } := by
  rcases opBlock_cases s with ⟨hend, -⟩ | ⟨-, hok⟩
  · omega
  · exact hok

/-- Twelve bytes move from REM to OFF (rule R113). -/
theorem opBlock_input {s t : State} (h : opBlock s = .ok t) : t.off = s.off + 12#32 ∧ t.rem = s.rem - 12#32 := by
  obtain ⟨v, rfl⟩ := opBlock_form h
  exact ⟨rfl, rfl⟩

theorem exec_nop {s : State} (hb : s.busy = false) : exec .nop s = .next s :=
  congrArg Host.Outcome.next (State.command_ok hb rfl)

theorem exec_hash {s : State} (hb : s.busy = false) (hlen : s.len.toNat ≤ s.dsize.toNat) :
    exec .hash s = .next { s with done := false, phase := .init } :=
  congrArg Host.Outcome.next (State.command_ok hb (if_neg (Nat.not_lt.mpr hlen)))

theorem exec_hash_oob {s : State} (hb : s.busy = false) (hlen : s.dsize.toNat < s.len.toNat) :
    exec .hash s = .next (raised s .oob) :=
  congrArg Host.Outcome.next (State.command_error hb (if_pos hlen))

theorem exec_init {s : State} (hb : s.busy = false) (hlen : s.len.toNat ≤ s.dsize.toNat) :
    exec .init s = .next (opInit s).setDone :=
  congrArg Host.Outcome.next (State.command_ok hb (if_neg (Nat.not_lt.mpr hlen)))

theorem exec_init_oob {s : State} (hb : s.busy = false) (hlen : s.dsize.toNat < s.len.toNat) :
    exec .init s = .next (raised s .oob) :=
  congrArg Host.Outcome.next (State.command_error hb (if_pos hlen))

theorem exec_block {s t : State} (hb : s.busy = false) (hrem : 12 < s.rem.toNat) (hop : opBlock s = .ok t) :
    exec .block s = .next t.setDone := by
  refine congrArg Host.Outcome.next (State.command_ok hb ?_)
  rw [if_neg (show ¬s.rem ≤ 12#32 by bv_omega), hop]
  rfl

theorem exec_block_seq {s : State} (hb : s.busy = false) (hrem : s.rem.toNat ≤ 12) :
    exec .block s = .next (raised s .seq) :=
  congrArg Host.Outcome.next (State.command_error hb (if_pos hrem))

theorem exec_tail {s t : State} (hb : s.busy = false) (hlow : 1 ≤ s.rem.toNat) (hhigh : s.rem.toNat ≤ 12)
    (hop : opTail s = .ok t) : exec .tail s = .next t.setDone := by
  refine congrArg Host.Outcome.next (State.command_ok hb ?_)
  rw [if_neg (show ¬(s.rem = 0#32 ∨ 12#32 < s.rem) by bv_omega), hop]
  rfl

theorem exec_tail_seq {s : State} (hb : s.busy = false) (hrem : s.rem.toNat = 0 ∨ 12 < s.rem.toNat) :
    exec .tail s = .next (raised s .seq) :=
  congrArg Host.Outcome.next (State.command_error hb (if_pos (by bv_omega)))

/-! The CORE's steps. -/

theorem coreStep_idle {s : State} (hp : s.phase = .idle) : coreStep s = .next s := by simp only [coreStep, hp]

theorem coreStep_init {s : State} (hp : s.phase = .init) : coreStep s = .next (opInit s).choosePhase := by
  simp only [coreStep, hp]

theorem coreStep_bulk {s t : State} (hp : s.phase = .bulk) (hrem : 12 < s.rem.toNat) (hop : opBlock s = .ok t) :
    coreStep s = .next t.choosePhase := by
  have hpre : 12#32 < s.rem := hrem
  simp only [coreStep, hp, guardedStep, hop, if_pos (decide_eq_true hpre)]

theorem coreStep_tail {s t : State} (hp : s.phase = .tail) (hlow : 1 ≤ s.rem.toNat) (hhigh : s.rem.toNat ≤ 12)
    (hop : opTail s = .ok t) : coreStep s = .next { t with phase := .final } := by
  have hpre : 1#32 ≤ s.rem ∧ s.rem ≤ 12#32 := ⟨hlow, hhigh⟩
  simp only [coreStep, hp, guardedStep, hop, if_pos (decide_eq_true hpre)]

theorem coreStep_final {s : State} (hp : s.phase = .final) : coreStep s = .next (opFinal s).endRun := by
  simp only [coreStep, hp]

theorem coreStep_empty {s : State} (hp : s.phase = .empty) :
    coreStep s = .next (State.endRun { s with result := s.c }) := by
  simp only [coreStep, hp]

theorem coreStep_reserved {s : State} (hp : s.phase = .reserved6 ∨ s.phase = .reserved7) :
    coreStep s = .fault .impossiblePhase := by
  rcases hp with hp | hp <;> simp only [coreStep, hp]

/-- Where PHASE's promise holds and the input lies inside the data space, the CORE has a step (rule R127). -/
theorem coreStep_next {s : State} (hp : phaseOk s) (hin : s.off.toNat + s.rem.toNat ≤ s.dsize.toNat) :
    ∃ t, coreStep s = .next t := by
  cases hs : s.phase <;> simp only [phaseOk, hs] at hp
  case idle => exact ⟨_, coreStep_idle hs⟩
  case init => exact ⟨_, coreStep_init hs⟩
  case bulk =>
    have hrem : 12 < s.rem.toNat := hp
    exact ⟨_, coreStep_bulk hs hrem (opBlock_ok (by omega))⟩
  case tail => exact ⟨_, coreStep_tail hs hp.1 hp.2 (opTail_ok hin)⟩
  case final => exact ⟨_, coreStep_final hs⟩
  case empty => exact ⟨_, coreStep_empty hs⟩

/-! The order of the tail guards. -/

/-- Adds to the lanes commute: a later add neither reads nor overwrites what an earlier one added (rule R115). -/
theorem addLane_comm (v : Word × Word × Word) (j k : Nat) (x y : Byte) :
    addLane (addLane v j x) k y = addLane (addLane v k y) j x := by
  have swap : ∀ w p q : Word, w + p + q = w + q + p := by intros; ac_rfl
  unfold addLane
  split <;> split <;> simp only [swap]

/-- What a guard does does not depend on the words: it fails, or it adds one byte, 0 where REM is below it. -/
theorem tailAdd_uniform (s : State) (guard : Nat) :
    (∀ v, tailAdd s v guard = .error .oob) ∨ ∃ x, ∀ v, tailAdd s v guard = .ok (addLane v (guard - 1) x) := by
  by_cases hrem : guard ≤ s.rem.toNat
  · by_cases hend : s.off.toNat + (guard - 1) < s.dsize.toNat
    · refine .inr ⟨s.mem.read (s.off.toNat + (guard - 1)), fun v => ?_⟩
      simp only [tailAdd, if_pos hrem, State.memRead_ok hend]
      rfl
    · exact .inl (tailAdd_pastEnd hrem (Nat.not_lt.mp hend))
  · exact .inr ⟨0#8, fun v => by rw [addLane_zero]; exact if_neg hrem⟩

/-- One more guard after those before it, which may have failed. -/
def tailAddAfter (s : State) (r : Except Cause (Word × Word × Word)) (guard : Nat) :
    Except Cause (Word × Word × Word) :=
  r >>= fun v => tailAdd s v guard

theorem tailFold_eq_foldl (s : State) (guards : List Nat) :
    tailFold s guards = guards.foldl (tailAddAfter s) (.ok (s.a, s.b, s.c)) := List.foldlM_eq_foldl ..

theorem tailAddAfter_comm (s : State) : RightCommutative (tailAddAfter s) where
  right_comm r g h := by
    cases r with
    | error cause => rfl
    | ok v =>
      rcases tailAdd_uniform s g with hg | ⟨x, hg⟩ <;> rcases tailAdd_uniform s h with hh | ⟨y, hh⟩ <;>
        simp only [tailAddAfter, bind, Except.bind, hg, hh, addLane_comm v (g - 1)]

theorem tailFold_perm (s : State) {guards guards' : List Nat} (h : guards.Perm guards') :
    tailFold s guards = tailFold s guards' := by
  rw [tailFold_eq_foldl, tailFold_eq_foldl]
  exact h.foldl_eq (rcomm := tailAddAfter_comm s) _

end Sys2Proof.Machine
end

section
/-! The HOST's writes to STATUS and to the registers of rule R129, and what can clear ERR (rules R128 and R129). -/

namespace Sys2Proof.Machine

/-- The registers the HOST may write while BUSY = 0 (rule R129). -/
def hostWritableRegs : List Reg := [.seed, .len, .a, .b, .c]

theorem exists_hostWritableReg : ∀ offset ∈ [0x08, 0x0C, 0x14, 0x18, 0x1C],
    ∃ r ∈ hostWritableRegs, (offset, r) ∈ registerMap := by decide

theorem State.writeReg_hostWritable_busy {s : State} {r : Reg} (hr : r ∈ hostWritableRegs) (hb : s.busy = true)
    (w : Word) : s.writeReg r w = raised s .busy := by
  simp only [hostWritableRegs, List.mem_cons, List.not_mem_nil, or_false] at hr
  rcases hr with rfl | rfl | rfl | rfl | rfl <;> exact if_pos hb

/-- A write at an offset of the map other than CTRL's is the register's. -/
theorem step_write_reg {s : State} {rest : List Event} {offset : Nat} {r : Reg} {w : Word}
    (hinbox : s.inbox = .write offset 4 w :: rest) (hmem : (offset, r) ∈ registerMap) (hctrl : r ≠ .ctrl) :
    step s = .next ((after s rest).writeReg r w) := by
  rw [step_of_cons hinbox, perform, hostWrite, Reg.ofAccess_of_mem _ hmem]
  cases r with
  | ctrl => exact absurd rfl hctrl
  | _ => rfl

/-- While BUSY = 0 a register of rule R129 takes the write; `act` is its row. -/
theorem step_write_idle {s : State} {rest : List Event} {offset : Nat} {r : Reg} {w : Word} {act : State → State}
    (hinbox : s.inbox = .write offset 4 w :: rest) (hb : s.busy = false) (hmem : (offset, r) ∈ registerMap)
    (hctrl : r ≠ .ctrl) (hact : (after s rest).writeReg r w = (after s rest).whenIdle act) :
    step s = .next (act (after s rest)) := by
  rw [step_write_reg hinbox hmem hctrl, hact, State.whenIdle_idle (s := after s rest) hb]

theorem State.acknowledge_eq (s : State) (w : Word) : s.acknowledge w = { s with
    done := s.done && !w.getLsbD 1
    err := s.err && !w.getLsbD 2
    ecode := if w.getLsbD 2 then .none else s.ecode } := by
  unfold State.acknowledge
  generalize w.getLsbD 1 = clearDone
  generalize w.getLsbD 2 = clearErr
  cases clearDone <;> cases clearErr <;> simp

/-- No register write but STATUS's clears ERR. -/
theorem State.writeReg_err {s : State} {r : Reg} (hr : r ≠ .status) (he : s.err = true) (w : Word) :
    (s.writeReg r w).err = true := by
  cases r with
  | status => exact absurd rfl hr
  | ctrl | result | off | rem | dsize | reserved => exact he
  | seed | len | a | b | c =>
    simp only [State.writeReg, State.whenIdle]
    split
    · rfl
    · exact he

/-- An event that clears ERR is a reset, or a write to STATUS with bit 2 set. -/
theorem EventEffect.err_cleared {e : Event} {s t : State} (h : EventEffect e s t) (hs : s.err = true)
    (ht : t.err = false) : e = .reset ∨ ∃ w, e = .write 0x04 4 w ∧ w.getLsbD 2 = true := by
  have kept : t.err = true → e = .reset ∨ ∃ w, e = .write 0x04 4 w ∧ w.getLsbD 2 = true :=
    fun hkept => absurd (hkept.symm.trans ht) nofun
  cases e with
  | write offset width w =>
    rcases h with ⟨-, -, ⟨cause, rfl⟩ | ⟨i, -, -, he⟩⟩ | ⟨r, hr, -, rfl⟩
    · exact kept rfl
    · exact kept (he.onlyRunFields.err.trans hs)
    · by_cases hstatus : r = .status
      · subst hstatus
        obtain ⟨rfl, hmem⟩ := Reg.ofAccess_eq_some hr
        obtain rfl : offset = 0x04 := by simpa using hmem
        refine .inr ⟨w, rfl, ?_⟩
        rw [State.writeReg, State.acknowledge_err, hs] at ht
        simpa using ht
      · exact kept (State.writeReg_err hstatus hs w)
  | read => obtain ⟨v, rfl⟩ := h; exact kept hs
  | bnz => obtain ⟨v, events, rfl⟩ := h; exact kept hs
  | remTest => obtain ⟨v, events, rfl⟩ := h; exact kept hs
  | reset => exact .inl rfl
  | storeData => obtain ⟨-, rfl⟩ := h; exact kept hs
  | core => exact kept ((CoreEffect.onlyRunFields h).err.trans hs)

end Sys2Proof.Machine
end

section
/-! A HASH run, seen from its CORE steps (rules R122 to R126): each leaves the value pending as it is and takes one step
off those left, so after S(LEN) of them RESULT holds HashRef (rules R130, R132 and R134). -/

namespace Sys2Proof.Machine

/-! HashRef's loop. -/

/-- The loop with no block left is its end, whatever the fuel. -/
theorem refLoop_finish {d : Nat → Byte} {rem : Nat} (h : rem ≤ 12) (fuel off : Nat) (v : Word × Word × Word) :
    refLoop d fuel off rem v = refFinish d off rem v := by
  cases fuel with
  | zero => rfl
  | succ fuel => exact if_neg (Nat.not_lt.mpr h)

/-- Fuel for every byte left is enough, and more changes nothing. -/
theorem refLoop_fuel (d : Nat → Byte) {fuel fuel' off rem : Nat} (h : rem ≤ fuel) (h' : rem ≤ fuel')
    (v : Word × Word × Word) : refLoop d fuel off rem v = refLoop d fuel' off rem v := by
  induction fuel generalizing fuel' off rem v with
  | zero => rw [refLoop_finish (by omega), refLoop_finish (by omega)]
  | succ fuel ih =>
    by_cases hrem : 12 < rem
    · cases fuel' with
      | zero => omega
      | succ fuel' =>
        simp only [refLoop, if_pos hrem]
        exact ih (by omega) (by omega) _
    · rw [refLoop_finish (by omega), refLoop_finish (by omega)]

/-- One block of the loop (rule R134). -/
theorem refLoop_block {d : Nat → Byte} {rem : Nat} (h : 12 < rem) (off : Nat) (v : Word × Word × Word) :
    refLoop d rem off rem v = refLoop d (rem - 12) (off + 12) (rem - 12)
      (mix (v.1 + refWord d off) (v.2.1 + refWord d (off + 4)) (v.2.2 + refWord d (off + 8))) := by
  rw [refLoop_fuel d (fuel := rem) (fuel' := rem + 1) le_rfl (Nat.le_succ rem), refLoop, if_pos h]
  exact refLoop_fuel d (Nat.sub_le rem 12) le_rfl _

theorem refWord_congr {d d' : Nat → Byte} {off : Nat} (h : ∀ j < 4, d (off + j) = d' (off + j)) :
    refWord d off = refWord d' off := by
  have h0 : d off = d' off := h 0 (by decide)
  rw [refWord, refWord, h0, h 1 (by decide), h 2 (by decide), h 3 (by decide)]

/-- The tail fold reads nothing but the bytes that are left. -/
theorem refFinish_congr {d d' : Nat → Byte} {off rem : Nat} (h : ∀ j < rem, d (off + j) = d' (off + j))
    (v : Word × Word × Word) : refFinish d off rem v = refFinish d' off rem v := by
  have hpad : padded d off rem = padded d' off rem := by
    funext j
    by_cases hj : j < rem
    · simp only [padded, if_pos hj, h j hj]
    · simp only [padded, if_neg hj]
  simp only [refFinish, hpad]

/-- The loop reads nothing but the bytes that are left (rule R132). -/
theorem refLoop_congr {d d' : Nat → Byte} {fuel off rem : Nat} (h : ∀ j < rem, d (off + j) = d' (off + j))
    (v : Word × Word × Word) : refLoop d fuel off rem v = refLoop d' fuel off rem v := by
  induction fuel generalizing off rem v with
  | zero => exact refFinish_congr h v
  | succ fuel ih =>
    simp only [refLoop]
    split
    · have hword : ∀ k ≤ 8, refWord d (off + k) = refWord d' (off + k) := fun k hk =>
        refWord_congr fun j hj => by rw [Nat.add_assoc]; exact h (k + j) (by omega)
      have h0 : refWord d off = refWord d' off := hword 0 (by decide)
      rw [h0, hword 4 (by decide), hword 8 (by decide)]
      exact ih (fun j hj => by rw [Nat.add_assoc]; exact h (12 + j) (by omega)) _
    · exact refFinish_congr h v

theorem hashRef_congr {d d' : Nat → Byte} {n : Word} (h : ∀ addr < n.toNat, d addr = d' addr) (seed : Word) :
    hashRef d seed n = hashRef d' seed n :=
  refLoop_congr (fun j hj => by rw [Nat.zero_add]; exact h j hj) _

/-! What is left of HashRef. -/

/-- What is left of HashRef from the words, OFF and REM as they stand. -/
def restOfHash (s : State) : Word := refLoop s.mem.read s.rem.toNat s.off.toNat s.rem.toNat (s.a, s.b, s.c)

theorem restOfHash_opInit (s : State) : restOfHash (opInit s) = hashRef s.mem.read s.seed s.len := rfl

theorem restOfHash_noBlock {s : State} (h : s.rem.toNat ≤ 12) :
    restOfHash s = refFinish s.mem.read s.off.toNat s.rem.toNat (s.a, s.b, s.c) := refLoop_finish h ..

theorem restOfHash_empty {s : State} (h : s.rem.toNat = 0) : restOfHash s = s.c := by
  rw [restOfHash_noBlock (by omega), refFinish, if_pos h]

theorem restOfHash_opBlock {s t : State} (hrem : 12 < s.rem.toNat) (h : opBlock s = .ok t) :
    restOfHash t = restOfHash s := by
  rcases opBlock_cases s with ⟨-, herr⟩ | ⟨hend, hok⟩
  · rw [herr] at h; cases h
  · rw [hok] at h
    cases h
    have hoff : (s.off + 12#32).toNat = s.off.toNat + 12 := by bv_omega
    have hrest : (s.rem - 12#32).toNat = s.rem.toNat - 12 := by bv_omega
    rw [restOfHash, restOfHash, refLoop_block hrem]
    simp only [State.setWords_mem, State.setWords_a, State.setWords_b, State.setWords_c, hoff, hrest]

/-- Op_Tail that reads inside the data space. -/
theorem opTail_inBounds {s t : State} (hlow : 1 ≤ s.rem.toNat) (hhigh : s.rem.toNat ≤ 12) (h : opTail s = .ok t) :
    s.off.toNat + s.rem.toNat ≤ s.dsize.toNat := by
  by_contra hend
  rw [opTail_error hlow hhigh (by omega)] at h
  cases h

theorem restOfHash_opTail {s t : State} (hlow : 1 ≤ s.rem.toNat) (hhigh : s.rem.toNat ≤ 12) (h : opTail s = .ok t) :
    finalize t.a t.b t.c = restOfHash s := by
  rw [opTail_ok (opTail_inBounds hlow hhigh h)] at h
  cases h
  rw [restOfHash_noBlock hhigh, refFinish, if_neg (by omega)]

/-! One CORE step. -/

theorem pendingResult_choosePhase (s : State) : pendingResult s.choosePhase = restOfHash s := by
  simp only [pendingResult, State.choosePhase_phase]
  by_cases hbulk : 12 < s.rem.toNat
  · rw [selectNext_bulk hbulk]; rfl
  · by_cases htail : 1 ≤ s.rem.toNat
    · rw [selectNext_tail htail (by omega), restOfHash_noBlock (by omega)]; rfl
    · rw [selectNext_empty (by omega), restOfHash_empty (by omega)]; rfl

theorem stepsLeft_choosePhase (s : State) : stepsLeft s.choosePhase = 1 + (s.rem.toNat + 11) / 12 := by
  simp only [stepsLeft, State.choosePhase_phase]
  by_cases hbulk : 12 < s.rem.toNat
  · rw [selectNext_bulk hbulk]; rfl
  · by_cases htail : 1 ≤ s.rem.toNat
    · rw [selectNext_tail htail (by omega)]; simp only; omega
    · rw [selectNext_empty (by omega)]; simp only; omega

/-- Every CORE step leaves the value pending as it is (rule R134). -/
theorem CoreEffect.pendingResult_eq {s t : State} (h : CoreEffect s t) : pendingResult t = pendingResult s := by
  cases hp : s.phase <;> simp only [CoreEffect, hp] at h
  case idle => rw [h]
  case init => rw [h, pendingResult_choosePhase, restOfHash_opInit]; simp only [pendingResult, hp]
  case bulk =>
    obtain ⟨hrem, u, hu, rfl⟩ := h
    rw [pendingResult_choosePhase, restOfHash_opBlock hrem hu]
    simp only [pendingResult, hp, restOfHash]
  case tail =>
    obtain ⟨hlow, hhigh, u, hu, rfl⟩ := h
    refine (restOfHash_opTail hlow hhigh hu).trans ?_
    rw [restOfHash_noBlock hhigh]
    simp only [pendingResult, hp]
  case final => rw [h]; simp only [pendingResult, hp]; rfl
  case empty => rw [h]; simp only [pendingResult, hp]; rfl

/-- Every CORE step of a run takes one step off those left (rule R130). -/
theorem CoreEffect.stepsLeft_succ {s t : State} (h : CoreEffect s t) (hb : s.phase ≠ .idle) :
    stepsLeft t + 1 = stepsLeft s := by
  cases hp : s.phase <;> simp only [CoreEffect, hp] at h
  case idle => exact absurd hp hb
  case init =>
    rw [h, stepsLeft_choosePhase]
    simp only [stepsLeft, hp, coreSteps, opInit_rem]
    split <;> omega
  case bulk =>
    obtain ⟨hrem, u, hu, rfl⟩ := h
    rw [stepsLeft_choosePhase]
    simp only [stepsLeft, hp]
    obtain ⟨v, rfl⟩ := opBlock_form hu
    bv_omega
  case tail => obtain ⟨-, -, u, -, rfl⟩ := h; simp only [stepsLeft, hp]
  case final => rw [h]; simp only [stepsLeft, hp]; rfl
  case empty => rw [h]; simp only [stepsLeft, hp]; rfl

end Sys2Proof.Machine
end

section
/-! Runs with no event from outside, and the HASH run among them (rules R120, R130 and R134). -/

namespace Sys2Proof.Machine

theorem core_run_succ {s u : State} (h : step s = .next u) (n : Nat) : core.run (n + 1) s = core.run n u := by
  have hcore : core.step s = .next u := h
  simp only [Host.Core.run, hcore]

theorem OnlyRunFieldsChange.refl (s : State) : OnlyRunFieldsChange s s := ⟨rfl, rfl, rfl, rfl, rfl, rfl, rfl, rfl⟩

theorem OnlyRunFieldsChange.trans {s t u : State} (h : OnlyRunFieldsChange s t) (h' : OnlyRunFieldsChange t u) :
    OnlyRunFieldsChange s u :=
  ⟨h'.seed.trans h.seed, h'.len.trans h.len, h'.dsize.trans h.dsize, h'.mem.trans h.mem, h'.inbox.trans h.inbox,
    h'.readBack.trans h.readBack, h'.err.trans h.err, h'.ecode.trans h.ecode⟩

/-! What the CORE's step of each phase writes. -/

theorem CoreEffect.of_init {s t : State} (h : CoreEffect s t) (hp : s.phase = .init) : t = (opInit s).choosePhase := by
  simpa only [CoreEffect, hp] using h

theorem CoreEffect.of_bulk {s t : State} (h : CoreEffect s t) (hp : s.phase = .bulk) :
    t.rem = s.rem - 12#32 ∧ t.phase = selectNext t.rem := by
  simp only [CoreEffect, hp] at h
  obtain ⟨-, u, hu, rfl⟩ := h
  exact ⟨(opBlock_input hu).2, rfl⟩

theorem CoreEffect.of_tail {s t : State} (h : CoreEffect s t) (hp : s.phase = .tail) : t.phase = .final := by
  simp only [CoreEffect, hp] at h
  obtain ⟨-, -, u, -, rfl⟩ := h
  rfl

theorem CoreEffect.of_final {s t : State} (h : CoreEffect s t) (hp : s.phase = .final) : t = (opFinal s).endRun := by
  simpa only [CoreEffect, hp] using h

theorem CoreEffect.of_empty {s t : State} (h : CoreEffect s t) (hp : s.phase = .empty) :
    t = State.endRun { s with result := s.c } := by
  simpa only [CoreEffect, hp] using h

/-! A run in progress. -/

/-- What a HASH run keeps true from its acceptance, and leaves true at its end: LEN ≤ DSIZE, what PHASE promises, and,
once Init is done, that OFF and REM make up LEN. -/
structure RunOk (s : State) : Prop where
  len : s.len.toNat ≤ s.dsize.toNat
  phase : phaseOk s
  input : s.phase ≠ .init → s.off.toNat + s.rem.toNat = s.len.toNat
  ended : s.phase = .idle → s.rem = 0#32 ∧ s.done = true

theorem RunOk.of_coreEffect {s t : State} (h : RunOk s) (he : CoreEffect s t) : RunOk t := by
  have ⟨hlen, hphase, hinput, _⟩ := h
  cases hp : s.phase <;> simp only [CoreEffect, phaseOk, hp] at he hphase
  case idle => rw [he]; exact h
  case init =>
    subst he
    exact ⟨hlen, phaseOk_choosePhase _, fun _ => Nat.zero_add _, fun hidle => absurd hidle (selectNext_ne_idle _)⟩
  case bulk =>
    obtain ⟨-, u, hu, rfl⟩ := he
    obtain ⟨v, rfl⟩ := opBlock_form hu
    have hsum := hinput (by simp [hp])
    refine ⟨hlen, phaseOk_choosePhase _, fun _ => ?_, fun hidle => absurd hidle (selectNext_ne_idle _)⟩
    simp only [State.choosePhase_off, State.choosePhase_rem, State.choosePhase_len, State.setWords_len]
    bv_omega
  case tail =>
    obtain ⟨-, -, u, hu, rfl⟩ := he
    obtain ⟨v, rfl⟩ := opTail_form hu
    have hsum := hinput (by simp [hp])
    refine ⟨hlen, rfl, fun _ => ?_, nofun⟩
    simp only [State.setWords_len]
    bv_omega
  case final => subst he; exact ⟨hlen, trivial, fun _ => hinput (by simp [hp]), fun _ => ⟨hphase, rfl⟩⟩
  case empty => subst he; exact ⟨hlen, trivial, fun _ => hinput (by simp [hp]), fun _ => ⟨hphase, rfl⟩⟩

/-- With no event to come a run goes on by the CORE's step. -/
theorem RunOk.step {s : State} (h : RunOk s) (hinbox : s.inbox = []) :
    ∃ t, step s = .next t ∧ CoreEffect s t ∧ RunOk t ∧ t.inbox = [] := by
  have hnext : ∃ t, coreStep s = .next t := by
    by_cases hinit : s.phase = .init
    · exact ⟨_, coreStep_init hinit⟩
    · exact coreStep_next h.phase ((h.input hinit).trans_le h.len)
  obtain ⟨t, ht⟩ := hnext
  have he := coreStep_cases ht
  exact ⟨t, (step_of_nil hinbox).trans ht, he, h.of_coreEffect he, he.onlyRunFields.inbox.trans hinbox⟩

theorem coreSteps_ne_zero (n : Nat) : coreSteps n ≠ 0 := by
  unfold coreSteps
  split <;> omega

/-- PHASE is IDLE exactly when no step is left. -/
theorem RunOk.stepsLeft_eq_zero {s : State} (h : RunOk s) : stepsLeft s = 0 ↔ s.phase = .idle := by
  have hphase := h.phase
  cases hp : s.phase <;> simp [stepsLeft, phaseOk, hp, coreSteps_ne_zero] at hphase ⊢

/-- `n` steps of a run lead from `s` to `t`. -/
structure RunSteps (n : Nat) (s t : State) : Prop where
  run : core.run n s = .next t
  ok : RunOk t
  left : stepsLeft t + n = stepsLeft s
  pending : pendingResult t = pendingResult s
  kept : OnlyRunFieldsChange s t

/-- By induction on the steps: each is the CORE's, which keeps the value pending and takes one off the steps left. -/
theorem RunOk.runSteps {s : State} (h : RunOk s) (hinbox : s.inbox = []) {n : Nat} (hn : n ≤ stepsLeft s) :
    ∃ t, RunSteps n s t := by
  induction n generalizing s with
  | zero => exact ⟨s, rfl, h, rfl, rfl, .refl s⟩
  | succ n ih =>
    obtain ⟨u, hstep, he, hu, hinbox'⟩ := h.step hinbox
    have hbusy : s.phase ≠ .idle := fun hidle => by rw [h.stepsLeft_eq_zero.mpr hidle] at hn; omega
    have hleft := he.stepsLeft_succ hbusy
    obtain ⟨t, hrun, ht, hleft', hpending, hkept⟩ := ih hu hinbox' (by omega)
    exact ⟨t, (core_run_succ hstep n).trans hrun, ht, by omega, hpending.trans he.pendingResult_eq,
      he.onlyRunFields.trans hkept⟩

end Sys2Proof.Machine

namespace Sys2Proof

open Sys2Proof.Machine

/-! Acceptance, and the end of the run. -/

theorem Accepted.len_le_and_eq {s s' : State} (h : Accepted s s') :
    s.len.toNat ≤ s.dsize.toNat ∧ s' = { s with done := false, phase := .init } := by
  obtain ⟨-, hidle, hexec, hbusy⟩ := h
  rcases exec_cases hexec with ⟨cause, rfl⟩ | ⟨-, hlen, rfl⟩
  · exact absurd (hidle.symm.trans hbusy) nofun
  · exact ⟨hlen, rfl⟩

theorem Accepted.phase {s s' : State} (h : Accepted s s') : s'.phase = .init := by rw [h.len_le_and_eq.2]

theorem Accepted.inbox {s s' : State} (h : Accepted s s') : s'.inbox = [] := by rw [h.len_le_and_eq.2]; exact h.1

theorem Accepted.runOk {s s' : State} (h : Accepted s s') : RunOk s' := by
  obtain ⟨hlen, rfl⟩ := h.len_le_and_eq
  exact ⟨hlen, hlen, fun hinit => absurd rfl hinit, nofun⟩

theorem Accepted.stepsLeft_eq {s s' : State} (h : Accepted s s') : stepsLeft s' = coreSteps s.len.toNat := by
  rw [h.len_le_and_eq.2]; rfl

/-- The result of a run accepted in `s`, as `t` holds it at the end (rule R134). -/
structure HashDone (s t : State) : Prop where
  phase : t.phase = .idle
  done : t.done = true
  result : t.result = hashRef s.mem.read s.seed s.len
  off : t.off = s.len
  rem : t.rem = 0#32
  kept : OnlyRunFieldsChange s t

/-- S(LEN) steps after acceptance the run has ended, with HashRef in RESULT. -/
theorem Accepted.hashDone {s s' : State} (h : Accepted s s') :
    ∃ t, core.run (coreSteps s.len.toNat) s' = .next t ∧ HashDone s t := by
  obtain ⟨t, hrun, hok, hleft, hpending, hkept⟩ := h.runOk.runSteps h.inbox h.stepsLeft_eq.ge
  have hidle : t.phase = .idle := hok.stepsLeft_eq_zero.mp (by rw [h.stepsLeft_eq] at hleft; omega)
  obtain ⟨hrem, hdone⟩ := hok.ended hidle
  have hinput := hok.input (by simp [hidle])
  obtain ⟨-, rfl⟩ := h.len_le_and_eq
  refine ⟨t, hrun, hidle, hdone, ?_, ?_, hrem, { hkept with }⟩
  · rw [pendingResult, hidle] at hpending
    exact hpending
  · have hlen : t.len = s.len := hkept.len
    bv_omega

end Sys2Proof
end

section
/-! STEPHASH (rule R72): a test of REM, a block while more than twelve bytes are left, and then the tail, all by commands
of the HOST in PHASE IDLE. -/

namespace Sys2Proof.Machine

/-- From `s` the machine comes to a state with `P`. -/
def Reaches (P : State → Prop) (s : State) : Prop := ∃ n t, core.run n s = .next t ∧ P t

theorem Reaches.refl {P : State → Prop} {s : State} (h : P s) : Reaches P s := ⟨0, s, rfl, h⟩

theorem Reaches.of_step {P : State → Prop} {s u : State} (hstep : step s = .next u) (h : Reaches P u) : Reaches P s := by
  obtain ⟨n, t, hrun, ht⟩ := h
  exact ⟨n + 1, t, (core_run_succ hstep n).trans hrun, ht⟩

/-- The HOST's write of a command. -/
theorem step_command {s t : State} {rest : List Event} {i : Instr} (hinbox : s.inbox = .write 0x00 4 (encode i) :: rest)
    (hwf : i.wellFormed = true) (hexec : exec i (after s rest) = .next t) : step s = .next t := by
  rw [step_write_ctrl hinbox, ctrlWrite_ok (decode_encode hwf), hexec]

theorem step_read {s : State} {rest : List Event} {offset : Nat} {r : Reg} (hinbox : s.inbox = .read offset 4 :: rest)
    (hmem : (offset, r) ∈ registerMap) : step s = .next ((after s rest).respond ((after s rest).readReg r)) := by
  rw [step_of_cons hinbox]
  exact hostRead_of_mem hmem _

/-- After STEPHASH's test: the HOST has read REM, and `events` come next. -/
def afterTest (s : State) (events : List Event) : State := { s.respond s.rem with inbox := events }

theorem step_remTest_block {s : State} (hinbox : s.inbox = [.remTest]) (hrem : 12 < s.rem.toNat) :
    step s = .next (afterTest s [.command .block, .core, .remTest]) := by
  rw [stepHashTest s [] hinbox, if_pos hrem]
  rfl

theorem step_remTest_empty {s : State} (hinbox : s.inbox = [.remTest]) (hrem : s.rem.toNat = 0) :
    step s = .next (afterTest s [.read 0x1C 4]) := by
  rw [stepHashTest s [] hinbox, if_neg (by omega), if_pos hrem]
  rfl

theorem step_remTest_tail {s : State} (hinbox : s.inbox = [.remTest]) (hlow : 1 ≤ s.rem.toNat)
    (hhigh : s.rem.toNat ≤ 12) :
    step s = .next (afterTest s [.command .tail, .command .final, .read 0x10 4]) := by
  rw [stepHashTest s [] hinbox, if_neg (by omega), if_neg (by omega)]
  rfl

end Sys2Proof.Machine

namespace Sys2Proof

open Sys2Proof.Machine

/-- STEPHASH begun in `s₀` stands before its test: what is left of HashRef is still to come. -/
structure StepHashLoop (s₀ s : State) : Prop where
  inbox : s.inbox = [.remTest]
  idle : s.busy = false
  inBounds : s.off.toNat + s.rem.toNat ≤ s.dsize.toNat
  rest : restOfHash s = hashRef s₀.mem.read s₀.seed s₀.len
  empty : s.rem = 0#32 ↔ s₀.len = 0#32
  err : s.err = s₀.err
  mem : s.mem = s₀.mem

/-- STEPHASH begun in `s₀` has ended (rule R134). -/
def StepHashDone (s₀ t : State) : Prop :=
  t.inbox = [] ∧ t.busy = false ∧ t.readBack = some (hashRef s₀.mem.read s₀.seed s₀.len) ∧
    (s₀.len ≠ 0#32 → t.result = hashRef s₀.mem.read s₀.seed s₀.len) ∧
    (s₀.len = 0#32 → t.c = hashRef s₀.mem.read s₀.seed s₀.len) ∧ t.err = s₀.err ∧ t.mem = s₀.mem

/-- More than twelve bytes left: BLOCK, a turn of the CORE, which is idle, and the test again. -/
theorem StepHashLoop.round {s₀ s : State} (h : StepHashLoop s₀ s) (hrem : 12 < s.rem.toNat) :
    ∃ u, StepHashLoop s₀ u ∧ u.rem.toNat < s.rem.toNat ∧ ∀ P, Reaches P u → Reaches P s := by
  obtain ⟨hinbox, hidle, hin, hrest, hempty, herr, hmem⟩ := h
  obtain ⟨v, hop⟩ : ∃ v, opBlock (afterTest s [.core, .remTest]) = .ok v :=
    ⟨_, opBlock_ok (show s.off.toNat + 12 ≤ s.dsize.toNat by omega)⟩
  have hkept := opBlock_onlyWordsAndInput hop
  obtain ⟨hoff, hrem'⟩ : v.off = s.off + 12#32 ∧ v.rem = s.rem - 12#32 :=
    opBlock_input (s := afterTest s [.core, .remTest]) hop
  have hidle' : v.phase = .idle := hkept.phase.trans (State.busy_eq_false.mp hidle)
  have hblock : step (afterTest s [.command .block, .core, .remTest]) = .next v.setDone :=
    step_command rfl rfl (exec_block hidle hrem hop)
  have hcore : step v.setDone = .next (after v.setDone [.remTest]) :=
    (step_of_cons (s := v.setDone) hkept.inbox).trans (coreStep_idle (s := after v.setDone [.remTest]) hidle')
  have hloop : StepHashLoop s₀ (after v.setDone [.remTest]) :=
    { inbox := rfl
      idle := State.busy_eq_false.mpr hidle'
      inBounds := by
        change v.off.toNat + v.rem.toNat ≤ v.dsize.toNat
        rw [hoff, hrem', show v.dsize = s.dsize from hkept.dsize]
        bv_omega
      rest := (restOfHash_opBlock (s := afterTest s [.core, .remTest]) hrem hop).trans hrest
      empty := by
        rw [← hempty, show (after v.setDone [.remTest]).rem = s.rem - 12#32 from hrem']
        bv_omega
      err := hkept.err.trans herr
      mem := hkept.mem.trans hmem }
  refine ⟨_, hloop, ?_, fun P hP => .of_step (step_remTest_block hinbox hrem) (.of_step hblock (.of_step hcore hP))⟩
  rw [show (after v.setDone [.remTest]).rem = s.rem - 12#32 from hrem']
  bv_omega

/-- STEPHASH's last read, of a register that holds the value. -/
theorem reaches_stepHashDone_of_read {s₀ s : State} {offset : Nat} {r : Reg} (hinbox : s.inbox = [.read offset 4])
    (hmap : (offset, r) ∈ registerMap) (hidle : s.busy = false)
    (hread : s.readReg r = hashRef s₀.mem.read s₀.seed s₀.len)
    (hresult : s₀.len ≠ 0#32 → s.result = hashRef s₀.mem.read s₀.seed s₀.len)
    (hc : s₀.len = 0#32 → s.c = hashRef s₀.mem.read s₀.seed s₀.len) (herr : s.err = s₀.err) (hmem : s.mem = s₀.mem) :
    Reaches (StepHashDone s₀) s := by
  have hread' : (after s []).readReg r = s.readReg r := by cases r <;> rfl
  refine .of_step (step_read hinbox hmap) (.refl ?_)
  rw [hread', hread]
  exact ⟨rfl, hidle, rfl, hresult, hc, herr, hmem⟩

/-- Nothing left: `RD C`. -/
theorem StepHashLoop.finish_empty {s₀ s : State} (h : StepHashLoop s₀ s) (hrem : s.rem.toNat = 0) :
    Reaches (StepHashDone s₀) s := by
  have hlen : s₀.len = 0#32 := h.empty.mp (BitVec.eq_of_toNat_eq hrem)
  have hc : s.c = hashRef s₀.mem.read s₀.seed s₀.len := (restOfHash_empty hrem).symm.trans h.rest
  exact .of_step (step_remTest_empty h.inbox hrem) (reaches_stepHashDone_of_read (r := .c) rfl (by decide) h.idle hc
    (fun hne => absurd hlen hne) (fun _ => hc) h.err h.mem)

/-- One to twelve bytes left: TAIL, FINAL and `RD RESULT`. -/
theorem StepHashLoop.finish_tail {s₀ s : State} (h : StepHashLoop s₀ s) (hlow : 1 ≤ s.rem.toNat)
    (hhigh : s.rem.toNat ≤ 12) : Reaches (StepHashDone s₀) s := by
  have hlen : s₀.len ≠ 0#32 := fun hlen => by rw [h.empty.mpr hlen] at hlow; exact absurd hlow (by decide)
  obtain ⟨v, hop⟩ : ∃ v, opTail (afterTest s [.command .final, .read 0x10 4]) = .ok v := ⟨_, opTail_ok h.inBounds⟩
  have hkept := opTail_onlyWordsAndInput hop
  have hidle : v.busy = false := State.busy_eq_false.mpr (hkept.phase.trans (State.busy_eq_false.mp h.idle))
  have hresult : finalize v.a v.b v.c = hashRef s₀.mem.read s₀.seed s₀.len :=
    (restOfHash_opTail (s := afterTest s [.command .final, .read 0x10 4]) hlow hhigh hop).trans h.rest
  have htail : step (afterTest s [.command .tail, .command .final, .read 0x10 4]) = .next v.setDone :=
    step_command rfl rfl (exec_tail h.idle hlow hhigh hop)
  have hfinal : step v.setDone = .next (opFinal (after v.setDone [.read 0x10 4])).setDone :=
    step_command (i := .final) hkept.inbox rfl (exec_final hidle)
  exact .of_step (step_remTest_tail h.inbox hlow hhigh) (.of_step htail (.of_step hfinal
    (reaches_stepHashDone_of_read (r := .result) rfl (by decide) hidle hresult (fun _ => hresult)
      (fun heq => absurd heq hlen) (hkept.err.trans h.err) (hkept.mem.trans h.mem))))

/-- By induction on the bytes left. -/
theorem StepHashLoop.reaches_done {s₀ s : State} (h : StepHashLoop s₀ s) : Reaches (StepHashDone s₀) s := by
  induction hn : s.rem.toNat using Nat.strong_induction_on generalizing s with
  | _ n ih =>
    subst hn
    by_cases hrem : 12 < s.rem.toNat
    · obtain ⟨u, hu, hless, hback⟩ := h.round hrem
      exact hback _ (ih _ hless hu rfl)
    · by_cases hlow : 1 ≤ s.rem.toNat
      · exact h.finish_tail hlow (Nat.not_lt.mp hrem)
      · exact h.finish_empty (by omega)

/-- INIT brings STEPHASH to its first test. -/
theorem stepHash_init {s : State} (hinbox : s.inbox = stepHashOps) (hb : s.busy = false)
    (hlen : s.len.toNat ≤ s.dsize.toNat) : ∃ u, step s = .next u ∧ StepHashLoop s u := by
  refine ⟨_, step_command (i := .init) hinbox rfl (exec_init hb hlen), rfl, hb, ?_, restOfHash_opInit s, .rfl, rfl, rfl⟩
  exact (Nat.zero_add _).trans_le hlen

end Sys2Proof
end

section
/-! The statements of 43_driver.md. -/

namespace Sys2Proof

open Sys2Proof.Machine

/-- Settles O40: the run ends S(LEN) steps after acceptance, and what it leaves is read off `HashDone`. -/
theorem hashRunComputesHashRef : Obligations.HashRunComputesHashRef := by
  intro s hinbox hidle hlen
  have hacc : Accepted s { s with done := false, phase := .init } := ⟨hinbox, hidle, exec_hash hidle hlen, rfl⟩
  obtain ⟨t, hrun, h⟩ := hacc.hashDone
  exact ⟨_, t, hacc, hrun, h.result, h.done, h.phase, h.off, h.rem, h.kept.seed, h.kept.len, h.kept.mem, h.kept.err,
    h.kept.ecode⟩

/-- Settles O41: the steps left fall from S(LEN) by one a step, and the run is busy while they are not 0. -/
theorem hashRunTakesExactlyS : Obligations.HashRunTakesExactlyS := by
  refine ⟨fun s s' h => ⟨fun k hk => ?_, ?_⟩, rfl, fun n hn => ?_, rfl, rfl, rfl, rfl⟩
  · obtain ⟨t, ht⟩ := h.runOk.runSteps h.inbox (h.stepsLeft_eq.symm ▸ hk.le)
    refine ⟨t, ht.run, State.busy_eq_true.mpr fun hidle => ?_⟩
    have hleft := ht.left
    rw [h.stepsLeft_eq, ht.ok.stepsLeft_eq_zero.mpr hidle] at hleft
    omega
  · obtain ⟨t, hrun, ht⟩ := h.hashDone
    exact ⟨t, hrun, State.busy_eq_false.mpr ht.phase⟩
  · rw [coreSteps, if_neg (by omega)]
    omega

/-- Settles O42: HashRef reads no byte at LEN or above, and each run leaves HashRef in RESULT. -/
theorem lengthPrefixConsistency : Obligations.LengthPrefixConsistency := by
  refine ⟨fun d₁ d₂ seed n h => hashRef_congr h seed, fun s₁ s₂ t₁ t₂ h₁ h₂ hseed hlen hdata => ?_⟩
  obtain ⟨u₁, hrun₁, hdone₁⟩ := h₁.hashDone
  obtain ⟨u₂, hrun₂, hdone₂⟩ := h₂.hashDone
  refine ⟨u₁, u₂, hrun₁, hrun₂, hdone₁.phase, hdone₂.phase, ?_⟩
  rw [hdone₁.result, hdone₂.result, ← hseed, ← hlen]
  exact hashRef_congr hdata _

/-- Settles O57: INIT, and then the loop of tests and blocks to its end. -/
theorem stepHashGivesHashRef : Obligations.StepHashGivesHashRef := by
  intro s hinbox hb hlen
  obtain ⟨u, hstep, hloop⟩ := stepHash_init hinbox hb hlen
  exact hloop.reaches_done.of_step hstep

/-- Settles O10: the command by its checks and Op_Block inside the data space. -/
theorem blockRule : Obligations.BlockRule := by
  refine ⟨fun s hb hrem hin => ⟨by bv_omega, by omega, exec_block hb hrem (opBlock_ok (by omega))⟩,
    fun _ hb hrem => exec_block_seq hb hrem, fun _ hb => exec_busy .block hb, decode_eq_ok_iff (i := .block) rfl⟩

/-- Settles O11: the command by its checks and Op_Tail inside the data space, its cascade as padded words. -/
theorem tailRule : Obligations.TailRule :=
  ⟨fun _ hb hlow hhigh hin => exec_tail hb hlow hhigh (opTail_ok hin), fun _ hb hrem => exec_tail_seq hb hrem,
    fun _ hb => exec_busy .tail hb, decode_eq_ok_iff (i := .tail) rfl⟩

/-- Settles O22: the write is the acknowledgement, and a step that clears ERR is an event that does. -/
theorem statusWrites : Obligations.StatusWrites := by
  refine ⟨fun s rest w hinbox => ?_, fun s t hstep hs ht => ?_⟩
  · rw [step_write_reg (r := .status) hinbox (by decide) nofun]
    exact congrArg Host.Outcome.next (State.acknowledge_eq _ w)
  · rcases step_cases hstep with ⟨-, he⟩ | ⟨e, rest, hcons, he⟩
    · exact absurd ((he.onlyRunFields.err.trans hs).symm.trans ht) nofun
    · rcases he.err_cleared hs ht with rfl | ⟨w, rfl, hw⟩
      · exact ⟨rest, .inl hcons⟩
      · exact ⟨rest, .inr ⟨w, hcons, hw⟩⟩

/-- Settles O32: the steps left tell the state after a CORE step from the one before it, and PHASE's promise, which every
step keeps, rules 6 and 7 out. -/
theorem coreHasOneStepWhileBusy : Obligations.CoreHasOneStepWhileBusy := by
  refine ⟨fun _ => coreStep_idle, fun s h hb => ?_, fun _ => coreStep_reserved, fun s t h hstep => ?_⟩
  · obtain ⟨t, ht⟩ := coreStep_next h.phase h.inBounds
    refine ⟨t, ht, fun heq => ?_⟩
    have hleft := (coreStep_cases ht).stepsLeft_succ (State.busy_eq_true.mp hb)
    rw [heq] at hleft
    omega
  · have hphase := (invariantKeptByEveryStep s t h hstep).phase
    constructor <;> intro hp <;> simp [phaseOk, hp] at hphase

/-- Settles O39: the CORE's step of each phase, with Op_Block and Op_Tail inside the data space. -/
theorem coreStepsByPhase : Obligations.CoreStepsByPhase :=
  ⟨fun _ hp => coreStep_init hp, fun _ hp hrem hin => coreStep_bulk hp hrem (opBlock_ok (by omega)),
    fun _ hp hlow hhigh hin => coreStep_tail hp hlow hhigh (opTail_ok hin), fun _ hp => coreStep_final hp,
    fun _ hp => coreStep_empty hp⟩

/-- Settles O43: SelectNext of 12, and of 13 and then of the one byte a block leaves. -/
theorem blockSizeBoundary : Obligations.BlockSizeBoundary := by
  intro s s' h
  obtain ⟨t1, h1, e1, ok1, i1⟩ := h.runOk.step h.inbox
  obtain ⟨t2, h2, e2, ok2, i2⟩ := ok1.step i1
  obtain ⟨t3, h3, e3, ok3, i3⟩ := ok2.step i2
  have hrun1 : core.run 1 s' = .next t1 := core_run_succ h1 0
  have hrun2 : core.run 2 s' = .next t2 := (core_run_succ h1 1).trans (core_run_succ h2 0)
  have hrun3 : core.run 3 s' = .next t3 := (core_run_succ h1 2).trans ((core_run_succ h2 1).trans (core_run_succ h3 0))
  have hinit : t1.rem = s.len ∧ t1.phase = selectNext s.len := by
    rw [e1.of_init h.phase, h.len_le_and_eq.2]
    exact ⟨rfl, rfl⟩
  obtain ⟨hrem1, hphase1⟩ := hinit
  refine ⟨fun hlen => ?_, fun hlen => ?_⟩
  · rw [hlen] at hphase1
    have hphase2 : t2.phase = .final := e2.of_tail hphase1
    have hphase3 : t3.phase = .idle := by rw [e3.of_final hphase2]; rfl
    exact ⟨t1, t2, t3, h.phase, hrun1, hphase1, hrun2, hphase2, hrun3, hphase3⟩
  · rw [hlen] at hrem1 hphase1
    obtain ⟨t4, h4, e4, -, -⟩ := ok3.step i3
    obtain ⟨hrem2, hphase2⟩ := e2.of_bulk hphase1
    rw [hrem1] at hrem2
    rw [hrem2] at hphase2
    have hphase3 : t3.phase = .final := e3.of_tail hphase2
    have hphase4 : t4.phase = .idle := by rw [e4.of_final hphase3]; rfl
    have hrun4 : core.run 4 s' = .next t4 :=
      (core_run_succ h1 3).trans ((core_run_succ h2 2).trans ((core_run_succ h3 1).trans (core_run_succ h4 0)))
    exact ⟨t1, t2, t3, t4, h.phase, hrun1, hphase1, hrun2, hphase2, hrem2, hrun3, hphase3, hrun4, hphase4⟩

/-- Settles O44: SelectNext answers EMPTY for 0 alone, and the EMPTY step returns C as Init left it. -/
theorem emptyInputUnfinalized : Obligations.EmptyInputUnfinalized := by
  refine ⟨fun s t hp hstep => ?_, fun s s' h hlen => ?_⟩
  · rw [(coreStep_cases hstep).of_init hp]
    exact selectNext_eq_empty_iff s.len
  · obtain ⟨t1, h1, e1, ok1, i1⟩ := h.runOk.step h.inbox
    obtain ⟨t2, h2, e2, -, -⟩ := ok1.step i1
    have ht1 := e1.of_init h.phase
    rw [h.len_le_and_eq.2] at ht1
    have hphase1 : t1.phase = .empty := by
      rw [ht1]
      exact (selectNext_eq_empty_iff s.len).mpr hlen
    obtain rfl := e2.of_empty hphase1
    have hc : t1.c = 0xDEADBEEF#32 + s.len + s.seed := by rw [ht1]; rfl
    rw [hlen, BitVec.add_zero] at hc
    exact ⟨_, (core_run_succ h1 1).trans (core_run_succ h2 0), rfl, rfl, hc, rfl⟩

/-- Settles O51: what a guard adds, and whether it fails, does not depend on the words, so two guards may change
places. -/
theorem tailGuardOrderIrrelevant : Obligations.TailGuardOrderIrrelevant := fun s _ h => tailFold_perm s h

/-- Settles O7: the command has no check but BUSY, and its word is the decoder's. -/
theorem nopRule : Obligations.NopRule :=
  ⟨fun _ => exec_nop, fun _ => exec_busy .nop, decode_eq_ok_iff (i := .nop) rfl⟩

/-- Settles O8: the command by its two checks. -/
theorem hashAcceptance : Obligations.HashAcceptance :=
  ⟨fun _ => exec_hash, fun _ => exec_hash_oob, fun _ => exec_busy .hash⟩

/-- Settles O9: the command by its two checks, and its word by the codec. -/
theorem initRule : Obligations.InitRule :=
  ⟨fun _ => exec_init, fun _ => exec_init_oob, fun _ => exec_busy .init, decode_eq_ok_iff (i := .init) rfl⟩

/-- Settles O21: the register's own write by BUSY, and after a write of LEN the two commands by their check of it. -/
theorem registerWrites : Obligations.RegisterWrites := by
  refine ⟨fun s rest w hb => ?_, fun s rest w offset hb hoffset hinbox => ?_, fun s t rest w hb hinbox hlen hstep => ?_⟩
  · exact ⟨fun h => step_write_idle (r := .seed) (act := fun s => { s with seed := w }) h hb (by decide) nofun rfl,
      fun h => step_write_idle (r := .len) (act := fun s => { s with len := w }) h hb (by decide) nofun rfl,
      fun h => step_write_idle (r := .a) (act := fun s => { s with a := w }) h hb (by decide) nofun rfl,
      fun h => step_write_idle (r := .b) (act := fun s => { s with b := w }) h hb (by decide) nofun rfl,
      fun h => step_write_idle (r := .c) (act := fun s => { s with c := w }) h hb (by decide) nofun rfl⟩
  · obtain ⟨r, hr, hmem⟩ := exists_hostWritableReg offset hoffset
    rw [step_write_reg hinbox hmem (by rintro rfl; exact absurd hr (by decide))]
    exact congrArg Host.Outcome.next (State.writeReg_hostWritable_busy (s := after s rest) hr hb w)
  · rw [step_write_idle (r := .len) (act := fun s => { s with len := w }) hinbox hb (by decide) nofun rfl] at hstep
    cases hstep
    exact ⟨exec_init_oob hb hlen, exec_hash_oob hb hlen⟩

/-- Settles O38: SelectNext's three cases, and that more than twelve bytes less twelve is not 0. -/
theorem nextPhaseSelection : Obligations.NextPhaseSelection := by
  refine ⟨fun _ => selectNext_bulk, fun _ => selectNext_tail, fun _ => selectNext_empty, fun r hr => ?_⟩
  have hrest : (r - 12#32).toNat = r.toNat - 12 := by bv_omega
  by_cases hmore : 12 < (r - 12#32).toNat
  · exact .inl (selectNext_bulk hmore)
  · exact .inr (selectNext_tail (by omega) (by omega))

end Sys2Proof
end

section
/-! A pending error changes nothing (rules R142 and R150): a command, and every HOST write but one to STATUS, raises the
same cause or has the same effect whatever ERR and ECODE hold. -/

namespace Sys2Proof.Machine

/-- The state with another error record. -/
def State.withError (s : State) (err : Bool) (code : ECode) : State := { s with err := err, ecode := code }

/-- Whatever ERR and ECODE hold, `op` raises one and the same cause from `s`, or has one and the same effect and leaves
them. -/
def IgnoresPendingError (op : State → Host.Outcome State Fault Refusal) (s : State) : Prop :=
  (∃ cause, ∀ err code, op (s.withError err code) = .next (raised (s.withError err code) cause)) ∨
  ∃ t : State, ∀ err code, op (s.withError err code) = .next (t.withError err code)

/-- From `s`, `body` fails with one and the same cause whatever ERR and ECODE hold, or answers one and the same state and
leaves them. -/
def CarriesError (body : State → Except Cause State) (s : State) : Prop :=
  ∀ err code, body (s.withError err code) = (body s).map (·.withError err code)

theorem opBlock_carriesError (s : State) : CarriesError opBlock s := by
  intro err code
  by_cases hin : s.off.toNat + 12 ≤ s.dsize.toNat
  · rw [opBlock_ok hin, opBlock_ok (s := s.withError err code) hin]
    rfl
  · rw [opBlock_error (Nat.not_le.mp hin), opBlock_error (s := s.withError err code) (Nat.not_le.mp hin)]
    rfl

theorem tailFold_withError (s : State) (err : Bool) (code : ECode) (guards : List Nat) :
    tailFold (s.withError err code) guards = tailFold s guards := rfl

theorem opTail_carriesError (s : State) : CarriesError opTail s := by
  intro err code
  unfold opTail
  rw [tailFold_withError]
  cases tailFold s tailGuards <;> rfl

/-- A check that does not look at the error record, before the operation. -/
theorem CarriesError.guarded {body : State → Except Cause State} {s : State} (h : CarriesError body s)
    {check : State → Prop} [DecidablePred check] (hcheck : ∀ err code, check (s.withError err code) ↔ check s)
    (cause : Cause) : CarriesError (fun s => if check s then .error cause else body s) s := by
  intro err code
  simp only [hcheck]
  split
  · rfl
  · exact h err code

/-- DONE is set after the operation. -/
theorem CarriesError.setDone {body : State → Except Cause State} {s : State} (h : CarriesError body s) :
    CarriesError (fun s => do return (← body s).setDone) s := by
  intro err code
  simp only [h err code]
  cases body s <;> rfl

/-- BUSY does not look at the error record. -/
theorem IgnoresPendingError.whenIdle {act : State → State} {s : State}
    (h : IgnoresPendingError (fun s => .next (act s)) s) : IgnoresPendingError (fun s => .next (s.whenIdle act)) s := by
  cases hb : s.busy with
  | true => exact .inl ⟨.busy, fun err code =>
      congrArg Host.Outcome.next (State.whenIdle_busy (s := s.withError err code) hb)⟩
  | false =>
    have hidle : ∀ err code, (s.withError err code).whenIdle act = act (s.withError err code) :=
      fun _ _ => State.whenIdle_idle hb
    simpa only [IgnoresPendingError, hidle] using h

/-- A command ignores a pending error when its body carries the error record along. -/
theorem CarriesError.command {body : State → Except Cause State} {s : State} (h : CarriesError body s) :
    IgnoresPendingError (fun s => .next (s.command body)) s := by
  refine IgnoresPendingError.whenIdle ?_
  cases hbody : body s with
  | error cause => exact .inl ⟨cause, fun err code => by simp only [h err code, hbody]; rfl⟩
  | ok t => exact .inr ⟨t, fun err code => by simp only [h err code, hbody]; rfl⟩

/-- No command looks at ERR or ECODE (rule R150). -/
theorem exec_ignoresPendingError (i : Instr) (s : State) : IgnoresPendingError (exec i) s := by
  cases i with
  | nop => exact CarriesError.command fun _ _ => rfl
  | hash =>
    exact (CarriesError.guarded (fun _ _ => rfl) (check := fun s => s.dsize < s.len) (fun _ _ => .rfl) .oob).command
  | init =>
    exact (CarriesError.guarded (fun _ _ => rfl) (check := fun s => s.dsize < s.len) (fun _ _ => .rfl) .oob).command
  | block =>
    exact ((opBlock_carriesError s).setDone.guarded (check := fun s => s.rem ≤ 12#32) (fun _ _ => .rfl) .seq).command
  | tail =>
    exact ((opTail_carriesError s).setDone.guarded (check := fun s => s.rem = 0#32 ∨ 12#32 < s.rem) (fun _ _ => .rfl)
      .seq).command
  | final => exact CarriesError.command fun _ _ => rfl
  | mix => exact CarriesError.command fun _ _ => rfl
  | rot k =>
    exact (CarriesError.guarded (fun _ _ => rfl) (check := fun _ => k = 0#5) (fun _ _ => .rfl) .illegal).command

theorem ctrlWrite_ignoresPendingError (w : Word) (s : State) : IgnoresPendingError (ctrlWrite w) s := by
  cases hw : decode w with
  | ok i =>
    rw [show ctrlWrite w = exec i from funext (ctrlWrite_ok hw)]
    exact exec_ignoresPendingError i s
  | error e =>
    cases hb : s.busy with
    | true => exact .inl ⟨.busy, fun err code => ctrlWrite_busy (s := s.withError err code) hb w⟩
    | false => exact .inl ⟨.illegal, fun err code => ctrlWrite_error (s := s.withError err code) hb hw⟩

theorem writeReg_ignoresPendingError {r : Reg} (hr : r ≠ .status) (w : Word) (s : State) :
    IgnoresPendingError (fun s => .next (s.writeReg r w)) s := by
  cases r with
  | status => exact absurd rfl hr
  | ctrl | result | off | rem | dsize | reserved => exact .inr ⟨s, fun _ _ => rfl⟩
  | seed => exact IgnoresPendingError.whenIdle (.inr ⟨{ s with seed := w }, fun _ _ => rfl⟩)
  | len => exact IgnoresPendingError.whenIdle (.inr ⟨{ s with len := w }, fun _ _ => rfl⟩)
  | a => exact IgnoresPendingError.whenIdle (.inr ⟨{ s with a := w }, fun _ _ => rfl⟩)
  | b => exact IgnoresPendingError.whenIdle (.inr ⟨{ s with b := w }, fun _ _ => rfl⟩)
  | c => exact IgnoresPendingError.whenIdle (.inr ⟨{ s with c := w }, fun _ _ => rfl⟩)

/-- A HOST write that answers a state ignores a pending error, unless it is STATUS's acknowledgement (rule R128). -/
theorem hostWrite_ignoresPendingError {offset width : Nat} {w : Word} {s t : State} (hoffset : offset ≠ 0x04)
    (h : hostWrite offset width w s = .next t) : IgnoresPendingError (hostWrite offset width w) s := by
  cases hr : Reg.ofAccess offset width with
  | none => rw [hostWrite_undefined hr] at h; cases h
  | some r =>
    by_cases hctrl : r = .ctrl
    · subst hctrl
      have hwrite : hostWrite offset width w = ctrlWrite w := by funext u; simp only [hostWrite, hr]
      rw [hwrite]
      exact ctrlWrite_ignoresPendingError w s
    · have hstatus : r ≠ .status := by
        rintro rfl
        obtain ⟨-, hmem⟩ := Reg.ofAccess_eq_some hr
        exact hoffset (by simpa using hmem)
      have hwrite : hostWrite offset width w = fun u => .next (u.writeReg r w) := by
        funext u
        cases r with
        | ctrl => exact absurd rfl hctrl
        | _ => simp only [hostWrite, hr]
      rw [hwrite]
      exact writeReg_ignoresPendingError hstatus w s

end Sys2Proof.Machine
end

section
/-! Where a step faults (rules R127 and R143): at a guard of a CORE step that fails, and at no event but the CORE's turn or
a store of the platform. -/

namespace Sys2Proof.Machine

theorem guardedStep_error {pre : Bool} {cause : Cause} {op : Except Cause State} {andThen : State → State}
    (h : op = .error cause) : guardedStep pre op andThen = .fault .failedGuard := by
  cases pre with
  | false => rfl
  | true => rw [h]; rfl

theorem coreStep_bulk_fault {s : State} (hp : s.phase = .bulk)
    (h : s.rem.toNat ≤ 12 ∨ s.dsize.toNat < s.off.toNat + 12) : coreStep s = .fault .failedGuard := by
  simp only [coreStep, hp]
  rcases h with hrem | hend
  · rw [decide_eq_false (show ¬12#32 < s.rem from Nat.not_lt.mpr hrem)]
    rfl
  · exact guardedStep_error (opBlock_error hend)

theorem coreStep_tail_fault {s : State} (hp : s.phase = .tail)
    (h : s.rem.toNat = 0 ∨ 12 < s.rem.toNat ∨ s.dsize.toNat < s.off.toNat + s.rem.toNat) :
    coreStep s = .fault .failedGuard := by
  simp only [coreStep, hp]
  by_cases hpre : 1#32 ≤ s.rem ∧ s.rem ≤ 12#32
  · obtain ⟨hlow, hhigh⟩ : 1 ≤ s.rem.toNat ∧ s.rem.toNat ≤ 12 := hpre
    exact guardedStep_error (opTail_error hlow hhigh (by omega))
  · rw [decide_eq_false hpre]
    rfl

/-- A HOST write is performed or refused. -/
theorem hostWrite_ne_fault (offset width : Nat) (w : Word) (s : State) (r : Fault) :
    hostWrite offset width w s ≠ .fault r := by
  intro h
  unfold hostWrite at h
  split at h
  · obtain ⟨t, ht⟩ := ctrlWrite_next w s
    rw [ht] at h
    cases h
  · cases h
  · cases h

/-- The two events that can fault: the CORE's turn, and a store outside the data space. -/
theorem perform_fault {e : Event} {s : State} {r : Fault} (h : perform e s = .fault r) :
    (e = .core ∧ coreStep s = .fault r) ∨ r = .noSuchDataByte := by
  cases e with
  | write offset width w => exact absurd h (hostWrite_ne_fault offset width w s r)
  | read offset width =>
    simp only [perform, hostRead] at h
    split at h <;> cases h
  | bnz offset bit =>
    simp only [perform, hostBranch] at h
    split at h
    · split at h <;> cases h
    · cases h
  | remTest => cases h
  | reset => cases h
  | storeData addr v =>
    simp only [perform, storeData] at h
    split at h
    · cases h; exact .inr rfl
    · split at h <;> cases h
  | core => exact .inl ⟨rfl, h⟩

/-- Where PHASE's promise holds and the input lies inside the data space, no step is a fault of the core. -/
theorem step_fault {s : State} {r : Fault} (hp : phaseOk s) (hin : s.off.toNat + s.rem.toNat ≤ s.dsize.toNat)
    (h : step s = .fault r) : r = .noSuchDataByte := by
  cases hinbox : s.inbox with
  | nil =>
    obtain ⟨t, ht⟩ := coreStep_next hp hin
    rw [step_of_nil hinbox, ht] at h
    cases h
  | cons e rest =>
    rw [step_of_cons hinbox] at h
    rcases perform_fault h with ⟨-, hcore⟩ | hstore
    · obtain ⟨t, ht⟩ := coreStep_next (s := after s rest) hp hin
      rw [ht] at hcore
      cases hcore
    · exact hstore

end Sys2Proof.Machine
end

section
/-! How a command that performs a CORE step's operation ends (rules R103, R117 to R119 and R156). -/

namespace Sys2Proof.Machine

theorem State.setDone_eq_endRun {s : State} (hp : s.phase = .idle) : s.setDone = s.endRun := by
  unfold State.endRun
  rw [← hp]
  rfl

end Sys2Proof.Machine
end

section
/-! The statements of 60_exceptions.md. -/

namespace Sys2Proof

open Sys2Proof.Machine

/-- Settles O18: the write raises the same cause, or has the same effect, with ERR and ECODE cleared as with any. -/
theorem errorsArePrecise : Obligations.ErrorsArePrecise := by
  intro s t rest offset w hinbox hoffset hstep
  rw [step_of_cons hinbox] at hstep
  rw [step_of_cons (rest := rest) (s := { s with err := false, ecode := .none }) hinbox]
  rcases hostWrite_ignoresPendingError hoffset hstep with ⟨cause, hraise⟩ | ⟨v, heffect⟩
  · obtain rfl : raised (after s rest) cause = t := Host.Outcome.next.inj ((hraise s.err s.ecode).symm.trans hstep)
    exact ⟨_, hraise false .none, fun _ => ⟨cause, rfl, rfl⟩, nofun⟩
  · obtain rfl : v.withError s.err s.ecode = t := Host.Outcome.next.inj ((heffect s.err s.ecode).symm.trans hstep)
    exact ⟨_, heffect false .none, nofun, fun _ => rfl⟩

/-- Settles O20: the command raises the same cause, or has the same effect, and a pending error keeps its code. -/
theorem pendingErrorDoesNotBlock : Obligations.PendingErrorDoesNotBlock := by
  intro i s t code _ hexec
  rcases exec_ignoresPendingError i s with ⟨cause, hraise⟩ | ⟨v, heffect⟩
  · obtain rfl : raised s cause = t := Host.Outcome.next.inj ((hraise s.err s.ecode).symm.trans hexec)
    exact ⟨_, hraise true code, rfl, rfl, rfl⟩
  · obtain rfl : v.withError s.err s.ecode = t := Host.Outcome.next.inj ((heffect s.err s.ecode).symm.trans hexec)
    exact ⟨_, heffect true code, rfl, rfl, rfl⟩

/-- Settles O31: PHASE's promise and the bound of the input are the guards of the CORE's steps, and a guard that fails is
the step's fault. -/
theorem coreStepsRaiseNoError : Obligations.CoreStepsRaiseNoError := by
  refine ⟨fun s h => ?_, fun s h => ?_, fun _ => coreStep_bulk_fault, fun _ => coreStep_tail_fault⟩
  · obtain ⟨t, ht⟩ := coreStep_next h.phase h.inBounds
    have hkept := (coreStep_cases ht).onlyRunFields
    exact ⟨t, ht, hkept.err, hkept.ecode⟩
  · constructor <;> intro hfault <;> cases step_fault h.phase h.inBounds hfault

/-- Settles O45: the CORE's step and the command perform one operation, which does not look at PHASE. -/
theorem singleStepsMirrorCoreSteps : Obligations.SingleStepsMirrorCoreSteps := by
  intro s t hp
  have hidle : s.busy = false := State.busy_eq_false.mpr hp
  refine ⟨fun hlen hstep => ?_, fun hstep => ?_, fun hstep => ?_, fun hstep => ?_⟩
  · obtain rfl := (coreStep_cases hstep).of_init rfl
    rw [exec_init hidle hlen]
    exact congrArg Host.Outcome.next (State.setDone_eq_endRun (s := opInit s) hp)
  · obtain ⟨hrem, u, hop, rfl⟩ : CoreEffect { s with phase := .bulk } t := coreStep_cases hstep
    rcases opBlock_cases { s with phase := .bulk } with ⟨-, herr⟩ | ⟨hin, hok⟩
    · rw [herr] at hop; cases hop
    · obtain rfl := Except.ok.inj (hok.symm.trans hop)
      rw [exec_block hidle hrem (opBlock_ok hin)]
      refine congrArg Host.Outcome.next (State.setDone_eq_endRun ?_)
      exact hp
  · obtain ⟨hlow, hhigh, u, hop, rfl⟩ : CoreEffect { s with phase := .tail } t := coreStep_cases hstep
    have hin := opTail_inBounds hlow hhigh hop
    obtain rfl := Except.ok.inj ((opTail_ok hin).symm.trans hop)
    rw [exec_tail hidle hlow hhigh (opTail_ok hin)]
    refine congrArg Host.Outcome.next (State.setDone_eq_endRun ?_)
    exact hp
  · obtain rfl := (coreStep_cases hstep).of_final rfl
    rw [exec_final hidle]
    exact congrArg Host.Outcome.next (State.setDone_eq_endRun (s := opFinal s) hp)

/-- Settles O17: an error is a next state too. -/
theorem commandsNeverStop : Obligations.CommandsNeverStop := exec_next

/-- Settles O19: CTRL by its own check of BUSY, and the other registers by the statements about their writes. -/
theorem busyWritesAreDropped : Obligations.BusyWritesAreDropped := by
  intro s rest offset w hinbox hb
  refine ⟨fun hoffset => ?_, ?_, fun hoffset => readOnlyWritesIgnored s rest offset w hoffset hinbox⟩
  · rcases List.mem_cons.mp hoffset with rfl | hregister
    · exact (step_write_ctrl hinbox).trans (ctrlWrite_busy (s := after s rest) hb w)
    · exact registerWrites.2.1 s rest w offset hb hregister hinbox
  · rintro rfl
    exact statusWrites.1 s rest w hinbox

end Sys2Proof
end

section
/-! One step of a run, whatever it is: the CORE's step, or an event that leaves what the run needs (rules R130, R147, R166
and R173). -/

namespace Sys2Proof.Machine

theorem RunKept.of_after {s t : State} {rest : List Event} (h : RunKept (after s rest) t) : RunKept s t := { h with }

/-- The value pending is read off the run's registers and the bytes of the data space. -/
theorem RunKept.pendingResult_eq {s t : State} (h : RunKept s t) : pendingResult t = pendingResult s := by
  simp only [pendingResult, h.phase, h.a, h.b, h.c, h.seed, h.len, h.off, h.rem, h.result, h.read]

theorem RunKept.stepsLeft_eq {s t : State} (h : RunKept s t) : stepsLeft t = stepsLeft s := by
  simp only [stepsLeft, h.phase, h.len, h.rem]

theorem RunKept.busy_eq {s t : State} (h : RunKept s t) : t.busy = s.busy := by
  simp only [State.busy, h.phase]

/-- A run ends in the CORE's steps of PHASE FINAL and EMPTY alone (rule R173). -/
theorem CoreEffect.phase_of_ends {s t : State} (h : CoreEffect s t) (hb : s.phase ≠ .idle) (ht : t.phase = .idle) :
    s.phase = .final ∨ s.phase = .empty := by
  cases hp : s.phase <;> simp only [CoreEffect, hp] at h
  case idle => exact absurd hp hb
  case init => subst h; exact absurd ht (selectNext_ne_idle _)
  case bulk => obtain ⟨-, u, -, rfl⟩ := h; exact absurd ht (selectNext_ne_idle _)
  case tail => obtain ⟨-, -, u, -, rfl⟩ := h; cases ht
  case final => exact .inl rfl
  case empty => exact .inr rfl

/-- The CORE's last step of a run writes PHASE and DONE (rules R125 and R126). -/
theorem CoreEffect.ends {s t : State} (h : CoreEffect s t) (hp : s.phase = .final ∨ s.phase = .empty) :
    t.phase = .idle ∧ t.done = true := by
  rcases hp with hp | hp
  · rw [h.of_final hp]; exact ⟨rfl, rfl⟩
  · rw [h.of_empty hp]; exact ⟨rfl, rfl⟩

/-- Before its last step the CORE leaves RESULT alone (rule R39). -/
theorem CoreEffect.result_of_goes_on {s t : State} (h : CoreEffect s t) (ht : t.phase ≠ .idle) : t.result = s.result :=
  h.result (fun hp => ht (h.ends (.inl hp)).1) (fun hp => ht (h.ends (.inr hp)).1)

/-- A step of a run that is no reset: the CORE's, or of an event that leaves what the run needs. -/
theorem step_busy {s t : State} (hwf : s.mem.wf) (hb : s.busy = true) (hreset : ∀ rest, s.inbox ≠ .reset :: rest)
    (h : step s = .next t) :
    (CoreTurn s ∧ ∃ rest, CoreEffect (after s rest) t) ∨
    (¬CoreTurn s ∧ ∃ e rest, s.inbox = e :: rest ∧ perform e (after s rest) = .next t ∧ RunKept s t) := by
  cases hinbox : s.inbox with
  | nil => exact .inl ⟨.inl hinbox, s.inbox, coreStep_cases (step_of_nil hinbox ▸ h)⟩
  | cons e rest =>
    rw [step_of_cons hinbox] at h
    by_cases hcore : e = .core
    · subst hcore
      exact .inl ⟨.inr ⟨rest, hinbox⟩, rest, coreStep_cases h⟩
    · have hturn : ¬CoreTurn s := by
        rintro (hnil | ⟨rest', hcons⟩)
        · rw [hnil] at hinbox; cases hinbox
        · rw [hcons] at hinbox; cases hinbox; exact hcore rfl
      have hne : e ≠ .reset := by rintro rfl; exact hreset rest hinbox
      have hkept : RunKept (after s rest) t := perform_busy hwf hb hne hcore h
      exact .inr ⟨hturn, e, rest, rfl, h, hkept.of_after⟩

end Sys2Proof.Machine
end

section
/-! Every run ends (rule R172): between two turns of the CORE the events to come run out. -/

namespace Sys2Proof.Machine

/-- A bound on the steps before the CORE's next turn. A poll loop begins with the CORE's turn, and STEPHASH's test brings at
most three events before one, or before what follows it (log entry 17). -/
def stepsBeforeTurn : List Event → Nat
  | [] => 0
  | .core :: _ => 0
  | .remTest :: rest => stepsBeforeTurn rest + 4
  | _ :: rest => stepsBeforeTurn rest + 1

theorem stepsBeforeTurn_lt_cons {e : Event} (hcore : e ≠ .core) (rest : List Event) :
    stepsBeforeTurn rest < stepsBeforeTurn (e :: rest) := by
  cases e with
  | core => exact absurd rfl hcore
  | _ => simp [stepsBeforeTurn]

theorem State.writeReg_inbox (s : State) (r : Reg) (w : Word) : (s.writeReg r w).inbox = s.inbox := by
  rcases s.writeReg_cases r w with h | h | h | ⟨-, seed, len, a, b, c, h⟩ <;> rw [h] <;> rfl

/-- Only the two loops bring new events. -/
theorem EventEffect.inbox {e : Event} {s t : State} (h : EventEffect e s t) (hbnz : ∀ offset bit, e ≠ .bnz offset bit)
    (htest : e ≠ .remTest) : t.inbox = s.inbox := by
  cases e with
  | write offset width w =>
    rcases h with ⟨-, -, ⟨cause, rfl⟩ | ⟨i, -, -, he⟩⟩ | ⟨r, -, -, rfl⟩
    · rfl
    · exact he.onlyRunFields.inbox
    · exact s.writeReg_inbox r w
  | read => obtain ⟨v, rfl⟩ := h; rfl
  | bnz offset bit => exact absurd rfl (hbnz offset bit)
  | remTest => exact absurd rfl htest
  | reset => obtain rfl := h; rfl
  | storeData => obtain ⟨-, rfl⟩ := h; rfl
  | core => exact (CoreEffect.onlyRunFields h).inbox

/-- Every other event than the CORE's turn brings that turn nearer. -/
theorem stepsBeforeTurn_perform {e : Event} {s t : State} (hcore : e ≠ .core) (h : perform e s = .next t) :
    stepsBeforeTurn t.inbox < stepsBeforeTurn (e :: s.inbox) := by
  by_cases hloop : (∃ offset bit, e = .bnz offset bit) ∨ e = .remTest
  · rcases hloop with ⟨offset, bit, rfl⟩ | rfl
    · simp only [perform, hostBranch] at h
      split at h
      · split at h
        · cases h; exact Nat.succ_pos _
        · cases h; exact stepsBeforeTurn_lt_cons hcore _
      · cases h
    · cases h
      split_ifs <;> simp [stepsBeforeTurn, Event.command]
  · obtain ⟨hbnz, htest⟩ := not_or.mp hloop
    rw [(perform_cases h).inbox (fun offset bit he => hbnz ⟨offset, bit, he⟩) htest]
    exact stepsBeforeTurn_lt_cons hcore _

theorem guardedStep_ne_refused (pre : Bool) (op : Except Cause State) (andThen : State → State) (r : Refusal) :
    guardedStep pre op andThen ≠ .refused r := by
  rcases guardedStep_cases pre op andThen with ⟨hfault, -⟩ | ⟨t, -, -, hnext⟩
  · rw [hfault]; nofun
  · rw [hnext]; nofun

/-- A CORE step answers or faults; the model refuses none. -/
theorem coreStep_ne_refused (s : State) (r : Refusal) : coreStep s ≠ .refused r := by
  cases hp : s.phase <;> simp only [coreStep, hp]
  case bulk | tail => exact guardedStep_ne_refused _ _ _ r
  all_goals nofun

/-- What the model refuses: an access that is no defined operation, and a change of the data space during a run. -/
theorem perform_refused {e : Event} {s : State} {r : Refusal} (h : perform e s = .refused r) :
    r = .undefinedAccess ∨ r = .dataChangedDuringRun := by
  cases e with
  | write offset width w =>
    simp only [perform, hostWrite] at h
    split at h
    · obtain ⟨t, ht⟩ := ctrlWrite_next w s
      rw [ht] at h
      cases h
    · cases h
    · cases h; exact .inl rfl
  | read offset width =>
    simp only [perform, hostRead] at h
    split at h
    · cases h
    · cases h; exact .inl rfl
  | bnz offset bit =>
    simp only [perform, hostBranch] at h
    split at h
    · split at h <;> cases h
    · cases h; exact .inl rfl
  | remTest => cases h
  | reset => cases h
  | storeData addr v =>
    simp only [perform, storeData] at h
    split at h
    · cases h
    · split at h
      · cases h; exact .inr rfl
      · cases h
  | core => exact absurd h (coreStep_ne_refused s r)

theorem step_refused {s : State} {r : Refusal} (h : step s = .refused r) :
    r = .undefinedAccess ∨ r = .dataChangedDuringRun := by
  cases hinbox : s.inbox with
  | nil => exact absurd (step_of_nil hinbox ▸ h) (coreStep_ne_refused s r)
  | cons e rest => exact perform_refused (step_of_cons hinbox ▸ h)

/-- The run in progress comes to its end, or the machine stops at what the model refuses or at a store outside the data
space. -/
def RunEnds (s : State) : Prop :=
  ∃ n, (∃ t : State, core.run n s = .next t ∧ t.busy = false) ∨
    core.run n s = .refused .undefinedAccess ∨ core.run n s = .refused .dataChangedDuringRun ∨
    core.run n s = .fault .noSuchDataByte

theorem RunEnds.of_idle {s : State} (h : s.busy = false) : RunEnds s := ⟨0, .inl ⟨s, rfl, h⟩⟩

theorem RunEnds.of_step {s u : State} (hstep : step s = .next u) (h : RunEnds u) : RunEnds s := by
  obtain ⟨n, hn⟩ := h
  exact ⟨n + 1, by rw [core_run_succ hstep]; exact hn⟩

/-- A step that answers no state is the last one. -/
theorem core_run_one (s : State) : core.run 1 s = step s := by
  have hcore : core.step s = step s := rfl
  simp only [Host.Core.run, hcore]
  cases step s <;> rfl

theorem RunEnds.of_refused {s : State} {r : Refusal} (h : step s = .refused r) : RunEnds s := by
  refine ⟨1, .inr ?_⟩
  rw [core_run_one, h]
  rcases step_refused h with rfl | rfl
  · exact .inl rfl
  · exact .inr (.inl rfl)

theorem RunEnds.of_fault {s : State} {r : Fault} (hinv : Inv s) (h : step s = .fault r) : RunEnds s := by
  obtain rfl := step_fault hinv.phase hinv.inBounds h
  exact ⟨1, .inr (.inr (.inr ((core_run_one s).trans h)))⟩

end Sys2Proof.Machine

namespace Sys2Proof

open Sys2Proof.Machine

/-- A step that leaves the run going takes off the CORE steps left, or leaves these and brings the CORE's turn nearer. -/
theorem step_progress {s t : State} (hinv : Inv s) (hb : s.busy = true) (h : step s = .next t) (ht : t.busy = true) :
    stepsLeft t < stepsLeft s ∨
    (stepsLeft t = stepsLeft s ∧ stepsBeforeTurn t.inbox < stepsBeforeTurn s.inbox) := by
  have hreset : ∀ rest, s.inbox ≠ .reset :: rest := by
    intro rest hinbox
    rw [step_of_cons hinbox] at h
    cases h
    cases ht
  rcases step_busy hinv.memWf hb hreset h with ⟨-, rest, he⟩ | ⟨hturn, e, rest, hinbox, hperform, hkept⟩
  · have hleft : stepsLeft t + 1 = stepsLeft s := he.stepsLeft_succ (State.busy_eq_true.mp hb)
    exact .inl (by omega)
  · have hcore : e ≠ .core := by rintro rfl; exact hturn (.inr ⟨rest, hinbox⟩)
    exact .inr ⟨hkept.stepsLeft_eq, hinbox ▸ stepsBeforeTurn_perform hcore hperform⟩

/-- By induction on the CORE steps left, and between two of these on the steps before the CORE's turn. -/
theorem runEnds (s : State) (hinv : Inv s) (hb : s.busy = true) : RunEnds s := by
  cases hstep : step s with
  | refused r => exact .of_refused hstep
  | fault r => exact .of_fault hinv hstep
  | next t =>
    cases ht : t.busy with
    | false => exact .of_step hstep (.of_idle ht)
    | true =>
      have hprogress := step_progress hinv hb hstep ht
      exact .of_step hstep (runEnds t (invariantKeptByEveryStep s t hinv hstep) ht)
termination_by (stepsLeft s, stepsBeforeTurn s.inbox)
decreasing_by exact Prod.lex_def.mpr hprogress

end Sys2Proof
end

section
/-! Reset, power-up before it, and the platform's stores (rules R160 to R163 and R166). -/

namespace Sys2Proof.Machine

theorem step_reset {s : State} {rest : List Event} (h : s.inbox = .reset :: rest) :
    step s = .next (after s rest).hwReset := step_of_cons h

@[simp] theorem State.hwReset_statusWord (s : State) : s.hwReset.statusWord = 0x00000000#32 := by
  change (State.resetFor 0#32 []).statusWord = 0x00000000#32
  decide

/-- The PREBOOT whose power-up holds the registers of `s`. -/
def State.preboot (s : State) : Preboot where
  a := s.a
  b := s.b
  c := s.c
  seed := s.seed
  len := s.len
  off := s.off
  rem := s.rem
  result := s.result
  phase := s.phase.code
  done := s.done
  err := s.err
  ecode := s.ecode.code

theorem State.powerUpFor_preboot (s : State) :
    { State.powerUpFor s.preboot s.dsize s.mem with inbox := s.inbox, readBack := s.readBack } = s := by
  simp only [State.powerUpFor, State.preboot, Phase.ofCode_code, ECode.ofCode_code]

/-- The reset of power-up: PREBOOT is gone. -/
theorem step_powerUpFor_reset (p : Preboot) (dsize : Word) (mem : Memory) :
    step { State.powerUpFor p dsize mem with inbox := [.reset] } = .next (State.resetFor dsize mem) := step_reset rfl

theorem storeData_refused {s : State} {addr : Nat} {v : Byte} (haddr : addr < s.dsize.toNat) (hb : s.busy = true)
    (hv : s.mem.read addr ≠ v) : storeData addr v s = .refused .dataChangedDuringRun := by
  rw [storeData, if_neg (Nat.not_le.mpr haddr), if_pos ⟨hb, hv⟩]

theorem storeData_idle {s : State} {addr : Nat} (haddr : addr < s.dsize.toNat) (hb : s.busy = false) (v : Byte) :
    storeData addr v s = .next { s with mem := s.mem.write addr v } := by
  rw [storeData, if_neg (Nat.not_le.mpr haddr), if_neg fun h => Bool.false_ne_true (hb.symm.trans h.1)]

/-- The machine after a reset and the HASH that comes next: LEN is DSIZE, so HASH is accepted (rules R38 and R120). -/
theorem accepted_hash_after_reset (s : State) :
    Accepted (after s.hwReset []) { after s.hwReset [] with done := false, phase := .init } :=
  ⟨rfl, rfl, exec_hash rfl le_rfl, rfl⟩

theorem step_hash_after_reset {s : State} (h : s.inbox = [.write 0x00 4 0x00000001#32]) :
    step s.hwReset = .next { after s.hwReset [] with done := false, phase := .init } :=
  step_command (i := .hash) h rfl (exec_hash rfl le_rfl)

end Sys2Proof.Machine
end

section
/-! The statements of 70_reset_and_hazards.md. -/

namespace Sys2Proof

open Sys2Proof.Machine

/-- Settles O55: the CORE's step takes one off the steps left and keeps the value pending, and every other step keeps both. -/
theorem runSurvivesOtherSteps : Obligations.RunSurvivesOtherSteps := by
  refine ⟨fun s t hidle hexec hb => ?_, fun s t hinv hb hstep hreset => ?_⟩
  · rcases exec_cases hexec with ⟨cause, rfl⟩ | ⟨-, -, rfl⟩
    · exact absurd (hidle.symm.trans hb) nofun
    · exact ⟨rfl, rfl⟩
  · have hbusy := State.busy_eq_true.mp hb
    rcases step_busy hinv.memWf hb hreset hstep with ⟨hturn, rest, he⟩ | ⟨hturn, -, -, -, -, hkept⟩
    · have hpending : pendingResult t = pendingResult s := he.pendingResult_eq
      have hleft : stepsLeft t + 1 = stepsLeft s := he.stepsLeft_succ hbusy
      refine ⟨he.onlyRunFields.seed, he.onlyRunFields.len, fun ht => ?_, fun ht => ?_⟩
      · exact ⟨hpending, he.result_of_goes_on (State.busy_eq_true.mp ht), fun _ => hleft, fun h => absurd hturn h⟩
      · have hidle := State.busy_eq_false.mp ht
        obtain ⟨-, hdone⟩ := he.ends (he.phase_of_ends hbusy hidle)
        simp only [stepsLeft, pendingResult, hidle] at hleft hpending
        exact ⟨hturn, hleft.symm, hpending, hdone⟩
    · refine ⟨hkept.seed, hkept.len, fun _ => ?_, fun ht => ?_⟩
      · exact ⟨hkept.pendingResult_eq, hkept.result, fun h => absurd h hturn, fun _ => hkept.stepsLeft_eq⟩
      · exact absurd (ht.symm.trans (hkept.busy_eq.trans hb)) nofun

/-- Settles O56: every step of a run comes nearer to the CORE's next step or takes it. -/
theorem everyRunEnds : Obligations.EveryRunEnds := runEnds

/-- Settles O35: the store's two checks, and the laws of a write to the data space. -/
theorem platformStores : Obligations.PlatformStores := by
  refine ⟨fun s rest addr v hinbox haddr hb hv => ?_, fun s rest addr v hinbox haddr hb hwf => ?_⟩
  · exact (step_of_cons hinbox).trans (storeData_refused (s := after s rest) haddr hb hv)
  · exact ⟨_, (step_of_cons hinbox).trans (storeData_idle (s := after s rest) haddr hb v),
      Memory.read_write_same hwf addr v, fun other => Memory.read_write_other s.mem v, rfl⟩

/-- Settles O36: read off the frames of the commands and of the CORE's steps; an error writes ERR and ECODE alone. -/
theorem coreNeverWritesSeedOrLen : Obligations.CoreNeverWritesSeedOrLen := by
  refine ⟨fun i s t h => ?_, fun s t h => ?_⟩
  · rcases exec_cases h with ⟨cause, rfl⟩ | ⟨-, he⟩
    · exact ⟨rfl, rfl⟩
    · exact ⟨he.onlyRunFields.seed, he.onlyRunFields.len⟩
  · have hkept := (coreStep_cases h).onlyRunFields
    exact ⟨hkept.seed, hkept.len⟩

/-- Settles O53: PREBOOT holds each register of the state, PHASE and ECODE by their codes. -/
theorem powerUpIsAnyValue : Obligations.PowerUpIsAnyValue :=
  ⟨fun s => ⟨s.preboot, s.powerUpFor_preboot⟩, step_powerUpFor_reset, step_powerUpFor_reset Config.preboot Config.dsize []⟩

/-- Settles O54: two steps come to the acceptance of a HASH with SEED 0 and LEN = DSIZE, and its run ends as any does. -/
theorem hashAfterReset : Obligations.HashAfterReset := by
  intro s hinbox
  obtain ⟨t, hrun, hdone⟩ := (accepted_hash_after_reset (after s [.write 0x00 4 0x00000001#32])).hashDone
  refine ⟨t, ?_, hdone.result, hdone.done, hdone.kept.err, hdone.phase, hdone.kept.mem⟩
  rw [Nat.add_comm, core_run_succ (step_reset hinbox), core_run_succ (step_hash_after_reset rfl)]
  exact hrun

/-- Settles O28: the reset event answers R38's values, and in PHASE IDLE the CORE has no step. -/
theorem resetEverything : Obligations.ResetEverything := by
  intro s rest hinbox
  exact ⟨(after s rest).hwReset, step_reset hinbox, rfl, rfl, rfl, rfl, rfl, rfl, rfl, rfl, State.hwReset_statusWord _,
    rfl, rfl, rfl, rfl, rfl, rfl, rfl, coreStep_idle rfl⟩

end Sys2Proof
end
